-- ==== Sys2Proof/Word.lean ====
section
/-! DEFINITION. The word types of the block: bytes, 16-bit and 32-bit words, and the two fixed byte
groups it moves, the 4-byte payload slot (R85) and the 8-byte CAN data field (R84). -/

namespace Sys2Proof

/-- A byte: the unit of the command port, the wire and the identification registers (R13). -/
abbrev Byte := BitVec 8

/-- A 16-bit word: an identifier or the value of a MessageType (R13, R40, R89). -/
abbrev Half := BitVec 16

/-- A 32-bit word: a payload field or the overflow counter (R13, R31). -/
abbrev Word := BitVec 32

/-- Four bytes, byte 0 first: the payload slot p0..p3 (R85) and the data bytes d0..d3 of a DataType
operand (R82). -/
structure Quad where
  b0 : Byte
  b1 : Byte
  b2 : Byte
  b3 : Byte
deriving DecidableEq, Repr

/-- Eight bytes, byte 0 first: the data field of a CAN frame (R40, R41, R84). -/
structure Octet where
  b0 : Byte
  b1 : Byte
  b2 : Byte
  b3 : Byte
  b4 : Byte
  b5 : Byte
  b6 : Byte
  b7 : Byte
deriving DecidableEq, Repr

/-- The four bytes in order. -/
abbrev Quad.toList (q : Quad) : List Byte := [q.b0, q.b1, q.b2, q.b3]

/-- The eight bytes in order. -/
abbrev Octet.toList (o : Octet) : List Byte := [o.b0, o.b1, o.b2, o.b3, o.b4, o.b5, o.b6, o.b7]

/-- The all-zero payload slot (R194). -/
abbrev Quad.zero : Quad := ⟨0x00#8, 0x00#8, 0x00#8, 0x00#8⟩

end Sys2Proof
end

