-- ==== Sys2Proof/Syntax.lean ====
section
/-! DEFINITION. The values the block works on (message types, typed data, raw messages, frames,
messages, driver records), the operand records of the command port (R82), and `Instr`, one constructor
for each row of spec/opcode_table.json (R81). -/

namespace Sys2Proof

/-- The seven message classes of the class table (R170), in its order. -/
inductive MsgClass where
  | eed | nsh | udh | nod | udl | dsd | nsl
deriving DecidableEq, Repr

/-- A MessageType (R172): a class with a 16-bit value, which may lie outside the class's range, or the
sentinel INVALID, which carries no value. -/
inductive MessageType where
  | valued (c : MsgClass) (value : Half)
  | invalid
deriving DecidableEq, Repr

/-- DataType (R110): the closed union of 34 payload encodings, in tag order (R119 to R152). A signed
field is held as its two's-complement pattern, whose integer is `BitVec.toInt` (R159). FLOAT, DOUBLEH
and DOUBLEL are opaque patterns (R158). The escape UDEF carries the proof that its tag is undefined, so
no UDEF value with a defined tag can be built (R118). Equality is structural (R117). -/
inductive DataType where
  | nodata
  | error (e : Word)
  | float (f : Word)
  | long (x : Word)
  | ulong (x : Word)
  | blong (x : Word)
  | short (x : Half)
  | ushort (x : Half)
  | bshort (x : Half)
  | char (x : Byte)
  | uchar (x : Byte)
  | bchar (x : Byte)
  | short2 (a b : Half)
  | ushort2 (a b : Half)
  | bshort2 (a b : Half)
  | char4 (a b c e : Byte)
  | uchar4 (a b c e : Byte)
  | bchar4 (a b c e : Byte)
  | char2 (a b : Byte)
  | uchar2 (a b : Byte)
  | bchar2 (a b : Byte)
  | memid (m : Word)
  | chksum (c : Word)
  | achar (a : Byte)
  | achar2 (a b : Byte)
  | achar4 (a b c e : Byte)
  | char3 (a b c : Byte)
  | uchar3 (a b c : Byte)
  | bchar3 (a b c : Byte)
  | achar3 (a b c : Byte)
  | doubleh (h : Word)
  | doublel (l : Word)
  | resvd
  | udef (t : Byte) (undefinedTag : 0x21#8 ≤ t) (x : Word)
deriving DecidableEq, Repr

/-- The enumerated service codes 0x00..0x0F, in code order (R88). They are labels: the block acts on
IDS alone. -/
inductive ServiceName where
  | ids | nss | dds | dus | scs | tis | fps | sts | fss | tcs | bss | nis | mis | mcs | css | dss
deriving DecidableEq, Repr

/-- The view of a service byte (R198): an enumerated code, or a custom code carrying the raw byte. -/
inductive ServiceView where
  | known (n : ServiceName)
  | custom (b : Byte)
deriving DecidableEq, Repr

/-- A RawMessage (R190), also the RAW operand of the command port (R82). `plen` is the port's byte:
a RawMessage the block builds has it in 0..4 (R191), an operand may hold any byte and is then ill
formed (R92). -/
structure RawMessage where
  nodeId : Byte
  typeTag : Byte
  serviceCode : Byte
  messageCode : Byte
  plen : Byte
  payload : Quad
deriving DecidableEq, Repr

/-- A frame (R196): a MessageType and a RawMessage. An entry of RQ is a frame (R33). -/
structure Frame where
  mt : MessageType
  raw : RawMessage
deriving DecidableEq, Repr

/-- A CANAerospaceMessage (R197): the application's view, its data decoded. -/
structure Message where
  mt : MessageType
  nodeId : Byte
  serviceCode : Byte
  messageCode : Byte
  data : DataType
deriving DecidableEq, Repr

/-- A frame as the driver delivers it (R40). Bytes of `data` at index min(dlc, 8) and up are ignored. -/
structure RxFrame where
  id : Half
  dlc : BitVec 4
  data : Octet
deriving DecidableEq, Repr

/-- A frame as the block passes it to the driver (R41). -/
structure TxFrame where
  id : Half
  dlc : BitVec 4
  data : Octet
deriving DecidableEq, Repr

/-- The DT operand (R82, R91): a tag and four bytes. Every pair denotes a DataType. -/
structure DtOperand where
  tag : Byte
  d : Quad
deriving DecidableEq, Repr

/-- The MT operand (R82, R89): a class byte and a 16-bit value. Every pair denotes a MessageType. -/
structure MtOperand where
  cls : Byte
  value : Half
deriving DecidableEq, Repr

/-- The FRAME operand (R82): an MT operand and a RAW operand. -/
structure FrameOperand where
  mt : MtOperand
  raw : RawMessage
deriving DecidableEq, Repr

/-- The MSG operand (R82): a CANAerospaceMessage, its data as a DT operand. -/
structure MsgOperand where
  mt : MtOperand
  nodeId : Byte
  serviceCode : Byte
  messageCode : Byte
  data : DtOperand
deriving DecidableEq, Repr

/-- The 21 commands of the command port (R10, R81), in opcode order. Operands are held as presented on
the port; what they denote is in Machine/Operands.lean. -/
inductive Instr where
  | nodeInit (n : Byte)
  | setHwRev (v : Byte)
  | setSwRev (v : Byte)
  | setConfig (v : Byte)
  | setHdrConfig (v : Byte)
  | notifyRx
  | sendMsg (m : MsgOperand)
  | readMsg
  | readStatus
  | dtEncode (x : DtOperand)
  | dtDecode (x : DtOperand)
  | dtTypeId (x : DtOperand)
  | dtLen (x : DtOperand)
  | mtClassify (id : Half)
  | mtId (m : MtOperand)
  | rawFromBytes (b : List Byte)
  | rawToBytes (r : RawMessage)
  | rawEmpty
  | msgFromFrame (f : FrameOperand)
  | msgToFrame (m : MsgOperand)
  | frameCmp (f1 f2 : FrameOperand)
deriving DecidableEq, Repr

end Sys2Proof
end

