-- ==== Sys2Proof/Machine/Flags.lean ====
section
/-! DEFINITION. The block has no condition flags (R22). What a caller reads instead are codes in the
response: the status byte (R270), NOTIFY_RX's disposition (R241) and FRAME_CMP's order byte (R83). -/

namespace Sys2Proof

/-- The status codes of R270. No other status byte is ever produced. -/
inductive Status where
  | ok | none | malformedFrame | outOfRange | notInitialized | illegalCommand
deriving DecidableEq, Repr

/-- The status byte (R270). -/
def statusCode (st : Status) : Byte :=
  match st with
  | .ok => 0x00#8
  | .none => 0x01#8
  | .malformedFrame => 0x02#8
  | .outOfRange => 0x03#8
  | .notInitialized => 0x04#8
  | .illegalCommand => 0x05#8

/-- The dispositions of a NOTIFY_RX (R241). -/
inductive Disposition where
  | noFrame | answeredIds | queued | droppedQueueFull | discardedInvalidId | discardedOtherNode
  | discardedMalformed
deriving DecidableEq, Repr

/-- The disposition byte (R241). -/
def dispositionCode (d : Disposition) : Byte :=
  match d with
  | .noFrame => 0x00#8
  | .answeredIds => 0x01#8
  | .queued => 0x02#8
  | .droppedQueueFull => 0x03#8
  | .discardedInvalidId => 0x04#8
  | .discardedOtherNode => 0x05#8
  | .discardedMalformed => 0x06#8

/-- The order byte ORD8 (R83, R210). -/
def orderCode (o : Ordering) : Byte :=
  match o with
  | .lt => 0x00#8
  | .eq => 0x01#8
  | .gt => 0x02#8

end Sys2Proof
end

