-- ==== Sys2Proof/Config.lean ====
section
/-! DEFINITION. The parameters of R7 at the values this hardware takes, and the free values. -/

namespace Sys2Proof

/-- `EQUAL_KEY_ORDER` (R7, R34, U5): where a frame goes among queued frames of the same identifier. -/
inductive EqualKeyOrder where
  | fifo
  | any
deriving DecidableEq, Repr

/-- `NONMATCH_REQ_POLICY` (R7, R230, U7): what becomes of a service request for another node. -/
inductive NonmatchReqPolicy where
  | discardAllServices
  | queueNonIds
deriving DecidableEq, Repr

/-- `FRAME_BYTES` (R7). -/
def Config.frameBytes : Nat := 8

/-- `HDR_BYTES` (R7). -/
def Config.hdrBytes : Nat := 4

/-- `MAX_PAYLOAD` (R7). -/
def Config.maxPayload : Nat := 4

/-- `BROADCAST_ID` (R7, R229). -/
def Config.broadcastId : Byte := 0x00#8

/-- `IDS_CODE` (R7, R231). -/
def Config.idsCode : Byte := 0x00#8

/-- `QCAP` (R7, R35). -/
def Config.qcap : Nat := 10

/-- `EQUAL_KEY_ORDER` of this hardware (R7, R34). -/
def Config.equalKeyOrder : EqualKeyOrder := .fifo

/-- `NONMATCH_REQ_POLICY` of this hardware (R7, R230). -/
def Config.nonmatchReqPolicy : NonmatchReqPolicy := .discardAllServices

/-- `IDS_REPLY_TAG` (R7, R232): UCHAR4. -/
def Config.idsReplyTag : Byte := 0x10#8

/-- FREE VALUE (log entry 4). The driver's answer to the block's n-th poll, where the environment's list
`State.rxIn` fixes none: a draw under no law (R12, R40, U2). It has no body, so nothing can be proved of it. -/
opaque Config.driverAnswer : Nat → Option RxFrame

/-- FREE VALUE (log entry 11). Under `EQUAL_KEY_ORDER = ANY` alone: which admissible place the frame of
the n-th poll takes (R34, R235). This hardware is FIFO and never reads it. -/
opaque Config.equalKeyChoice : Nat → Nat

end Sys2Proof
end

