-- ==== Sys2Proof/WellFormed.lean ====
section
/-! DEFINITION. Which instruction terms the command port can present. -/

namespace Sys2Proof

/-- An instruction term is well formed when the port can carry it. Every operand field is free, but for
the byte sequence of F_SEQ, whose length travels in one byte: n is 0..255 (R82). An ill-formed RAW
operand (R92) is NOT excluded here: it is a command the block executes and answers with
MALFORMED_FRAME (R273). -/
def Instr.wellFormed (i : Instr) : Bool :=
  match i with
  | .nodeInit _ => true
  | .setHwRev _ => true
  | .setSwRev _ => true
  | .setConfig _ => true
  | .setHdrConfig _ => true
  | .notifyRx => true
  | .sendMsg _ => true
  | .readMsg => true
  | .readStatus => true
  | .dtEncode _ => true
  | .dtDecode _ => true
  | .dtTypeId _ => true
  | .dtLen _ => true
  | .mtClassify _ => true
  | .mtId _ => true
  | .rawFromBytes b => decide (b.length ≤ 255)
  | .rawToBytes _ => true
  | .rawEmpty => true
  | .msgFromFrame _ => true
  | .msgToFrame _ => true
  | .frameCmp _ _ => true

end Sys2Proof
end

