-- ==== Sys2Proof/Decode.lean ====
section
/-! DEFINITION. The command decoder of the command port (R80 to R82, R93, R95, R98), total on any bytes;
after it the encoder, written from the same tables. -/

namespace Sys2Proof

/-- Two bytes read as one 16-bit word, big-endian: U16 of R13. -/
def u16 (hi lo : Byte) : Half := hi ++ lo

/-- Four bytes read as one 32-bit word, big-endian: U32 of R13. -/
def u32 (b0 b1 b2 b3 : Byte) : Word := b0 ++ b1 ++ b2 ++ b3

/-- The high byte of a 16-bit word. -/
def hi8 (x : Half) : Byte := x.extractLsb' 8 8

/-- The low byte of a 16-bit word. -/
def lo8 (x : Half) : Byte := x.extractLsb' 0 8

/-- BE16 of R13. -/
def be16 (x : Half) : List Byte := [hi8 x, lo8 x]

/-- BE32 of R13, as a payload slot. -/
def be32 (x : Word) : Quad := ⟨x.extractLsb' 24 8, x.extractLsb' 16 8, x.extractLsb' 8 8, x.extractLsb' 0 8⟩

/-- The operand formats of R82. -/
inductive Format where
  | fNone | fImm8 | fDt | fId | fMt | fSeq | fRaw | fFrame | fMsg | fFrame2
deriving DecidableEq, Repr

/-- The format of an opcode, from the opcode map (R81); none for an illegal opcode (R93). -/
def formatOf (op : Byte) : Option Format :=
  match op with
  | 0x01#8 => some .fImm8
  | 0x02#8 => some .fImm8
  | 0x03#8 => some .fImm8
  | 0x04#8 => some .fImm8
  | 0x05#8 => some .fImm8
  | 0x06#8 => some .fNone
  | 0x07#8 => some .fMsg
  | 0x08#8 => some .fNone
  | 0x09#8 => some .fNone
  | 0x10#8 => some .fDt
  | 0x11#8 => some .fDt
  | 0x12#8 => some .fDt
  | 0x13#8 => some .fDt
  | 0x20#8 => some .fId
  | 0x21#8 => some .fMt
  | 0x30#8 => some .fSeq
  | 0x31#8 => some .fRaw
  | 0x32#8 => some .fNone
  | 0x40#8 => some .fFrame
  | 0x41#8 => some .fMsg
  | 0x42#8 => some .fFrame2
  | _ => none

/-- The length in bytes of a format, opcode included (R82); F_SEQ's without its n bytes. -/
def fixedLength (f : Format) : Nat :=
  match f with
  | .fNone => 1
  | .fImm8 => 2
  | .fDt => 6
  | .fId => 3
  | .fMt => 4
  | .fSeq => 2
  | .fRaw => 10
  | .fFrame => 13
  | .fMsg => 12
  | .fFrame2 => 25

/-- The length of the command that begins with `op` and `next` (R95): the opcode fixes it, and for F_SEQ
the length byte is added. An illegal opcode takes its own byte alone (R93). -/
def commandLength (op next : Byte) : Nat :=
  match formatOf op with
  | none => 1
  | some .fSeq => fixedLength .fSeq + next.toNat
  | some f => fixedLength f

/-- What the decoder finds at the front of the bytes on the command port. -/
inductive Decoded where
  /-- No byte is there: no command is presented. -/
  | idle
  /-- Fewer bytes than the opcode's format needs: not a transaction (R80, R320). -/
  | partialCommand
  /-- An opcode byte outside the opcode map (R93), and the bytes after it. -/
  | illegalOpcode (op : Byte) (rest : List Byte)
  /-- A whole command, and the bytes after it. -/
  | instr (i : Instr) (rest : List Byte)
deriving DecidableEq, Repr

/-- The imm8 operand of F_IMM8. -/
def takeImm8 (bs : List Byte) : Option (Byte × List Byte) :=
  match bs with
  | v :: rest => some (v, rest)
  | _ => none

/-- The identifier of F_ID, most significant byte first. -/
def takeId (bs : List Byte) : Option (Half × List Byte) :=
  match bs with
  | h :: l :: rest => some (u16 h l, rest)
  | _ => none

/-- The MT operand. -/
def takeMt (bs : List Byte) : Option (MtOperand × List Byte) :=
  match bs with
  | c :: h :: l :: rest => some (⟨c, u16 h l⟩, rest)
  | _ => none

/-- The DT operand. -/
def takeDt (bs : List Byte) : Option (DtOperand × List Byte) :=
  match bs with
  | t :: d0 :: d1 :: d2 :: d3 :: rest => some (⟨t, ⟨d0, d1, d2, d3⟩⟩, rest)
  | _ => none

/-- The RAW operand. -/
def takeRaw (bs : List Byte) : Option (RawMessage × List Byte) :=
  match bs with
  | n :: t :: s :: m :: l :: p0 :: p1 :: p2 :: p3 :: rest => some (⟨n, t, s, m, l, ⟨p0, p1, p2, p3⟩⟩, rest)
  | _ => none

/-- The FRAME operand: an MT operand, then a RAW operand. -/
def takeFrame (bs : List Byte) : Option (FrameOperand × List Byte) :=
  match takeMt bs with
  | none => none
  | some (m, bs1) =>
    match takeRaw bs1 with
    | none => none
    | some (r, rest) => some (⟨m, r⟩, rest)

/-- The MSG operand: an MT operand, three bytes, then a DT operand. -/
def takeMsg (bs : List Byte) : Option (MsgOperand × List Byte) :=
  match takeMt bs with
  | some (m, n :: s :: c :: bs1) =>
    match takeDt bs1 with
    | none => none
    | some (d, rest) => some (⟨m, n, s, c, d⟩, rest)
  | _ => none

/-- The two FRAME operands of F_FRAME2. -/
def takeFrame2 (bs : List Byte) : Option ((FrameOperand × FrameOperand) × List Byte) :=
  match takeFrame bs with
  | none => none
  | some (f1, bs1) =>
    match takeFrame bs1 with
    | none => none
    | some (f2, rest) => some ((f1, f2), rest)

/-- The byte sequence of F_SEQ: the length byte n, then n bytes. -/
def takeSeq (bs : List Byte) : Option (List Byte × List Byte) :=
  match bs with
  | n :: bs1 => if n.toNat ≤ bs1.length then some (bs1.take n.toNat, bs1.drop n.toNat) else none
  | _ => none

/-- A command whose operands were read, or a partial command where they were not all there. -/
def withOperand {α : Type} (mk : α → Instr) (r : Option (α × List Byte)) : Decoded :=
  match r with
  | none => .partialCommand
  | some (x, rest) => .instr (mk x) rest

/-- The decoder: the opcode selects the command (R81) and its format reads the operands (R82). -/
def decode (bytes : List Byte) : Decoded :=
  match bytes with
  | [] => .idle
  | op :: bs =>
    match op with
    | 0x01#8 => withOperand .nodeInit (takeImm8 bs)
    | 0x02#8 => withOperand .setHwRev (takeImm8 bs)
    | 0x03#8 => withOperand .setSwRev (takeImm8 bs)
    | 0x04#8 => withOperand .setConfig (takeImm8 bs)
    | 0x05#8 => withOperand .setHdrConfig (takeImm8 bs)
    | 0x06#8 => .instr .notifyRx bs
    | 0x07#8 => withOperand .sendMsg (takeMsg bs)
    | 0x08#8 => .instr .readMsg bs
    | 0x09#8 => .instr .readStatus bs
    | 0x10#8 => withOperand .dtEncode (takeDt bs)
    | 0x11#8 => withOperand .dtDecode (takeDt bs)
    | 0x12#8 => withOperand .dtTypeId (takeDt bs)
    | 0x13#8 => withOperand .dtLen (takeDt bs)
    | 0x20#8 => withOperand .mtClassify (takeId bs)
    | 0x21#8 => withOperand .mtId (takeMt bs)
    | 0x30#8 => withOperand .rawFromBytes (takeSeq bs)
    | 0x31#8 => withOperand .rawToBytes (takeRaw bs)
    | 0x32#8 => .instr .rawEmpty bs
    | 0x40#8 => withOperand .msgFromFrame (takeFrame bs)
    | 0x41#8 => withOperand .msgToFrame (takeMsg bs)
    | 0x42#8 => withOperand (fun fs => .frameCmp fs.1 fs.2) (takeFrame2 bs)
    | _ => .illegalOpcode op bs

/-- The low k bytes of a number, least significant first. -/
def numberBytes (k w : Nat) : List Byte :=
  match k with
  | 0 => []
  | k + 1 => BitVec.ofNat 8 w :: numberBytes k (w / 256)

/-- The bytes, as the host presents them, of the one command at the front of an instruction whose bits
are `w`: bit 0 is bit 0 of the opcode, byte k of the command is bits 8k+7..8k, and every bit at `nbits`
and above is 0. The longest command has 257 bytes (F_SEQ with n = 255). -/
def tableWordBytes (nbits w : Nat) : List Byte :=
  let v := w % 2 ^ nbits
  (numberBytes 257 v).take (commandLength (BitVec.ofNat 8 v) (BitVec.ofNat 8 (v / 256)))

/-- The instruction the decoder reads from a word of the opcode table. -/
def decodeTableWord (nbits w : Nat) : Option Instr :=
  match decode (tableWordBytes nbits w) with
  | .instr i _ => some i
  | _ => none

/-- The MT operand's bytes (R82). -/
def MtOperand.bytes (m : MtOperand) : List Byte := m.cls :: be16 m.value

/-- The DT operand's bytes (R82), also the result TAG, DATA4 (R83). -/
def DtOperand.bytes (x : DtOperand) : List Byte := x.tag :: x.d.toList

/-- The RAW operand's bytes (R82), also the result RAW (R83). -/
def RawMessage.bytes (r : RawMessage) : List Byte :=
  [r.nodeId, r.typeTag, r.serviceCode, r.messageCode, r.plen] ++ r.payload.toList

/-- The FRAME operand's bytes (R82), also the result FRAME (R83). -/
def FrameOperand.bytes (f : FrameOperand) : List Byte := f.mt.bytes ++ f.raw.bytes

/-- The MSG operand's bytes (R82), also the result MSG (R83). -/
def MsgOperand.bytes (m : MsgOperand) : List Byte :=
  m.mt.bytes ++ [m.nodeId, m.serviceCode, m.messageCode] ++ m.data.bytes

/-- The opcode byte of each command (R81). -/
def opcode (i : Instr) : Byte :=
  match i with
  | .nodeInit _ => 0x01#8
  | .setHwRev _ => 0x02#8
  | .setSwRev _ => 0x03#8
  | .setConfig _ => 0x04#8
  | .setHdrConfig _ => 0x05#8
  | .notifyRx => 0x06#8
  | .sendMsg _ => 0x07#8
  | .readMsg => 0x08#8
  | .readStatus => 0x09#8
  | .dtEncode _ => 0x10#8
  | .dtDecode _ => 0x11#8
  | .dtTypeId _ => 0x12#8
  | .dtLen _ => 0x13#8
  | .mtClassify _ => 0x20#8
  | .mtId _ => 0x21#8
  | .rawFromBytes _ => 0x30#8
  | .rawToBytes _ => 0x31#8
  | .rawEmpty => 0x32#8
  | .msgFromFrame _ => 0x40#8
  | .msgToFrame _ => 0x41#8
  | .frameCmp _ _ => 0x42#8

/-- The operand bytes of each command, in its format (R82). -/
def operandBytes (i : Instr) : List Byte :=
  match i with
  | .nodeInit n => [n]
  | .setHwRev v => [v]
  | .setSwRev v => [v]
  | .setConfig v => [v]
  | .setHdrConfig v => [v]
  | .notifyRx => []
  | .sendMsg m => m.bytes
  | .readMsg => []
  | .readStatus => []
  | .dtEncode x => x.bytes
  | .dtDecode x => x.bytes
  | .dtTypeId x => x.bytes
  | .dtLen x => x.bytes
  | .mtClassify id => be16 id
  | .mtId m => m.bytes
  | .rawFromBytes b => BitVec.ofNat 8 b.length :: b
  | .rawToBytes r => r.bytes
  | .rawEmpty => []
  | .msgFromFrame f => f.bytes
  | .msgToFrame m => m.bytes
  | .frameCmp f1 f2 => f1.bytes ++ f2.bytes

/-- The encoder: the bytes the host presents for a well-formed command (R80). -/
def encode (i : Instr) : List Byte := opcode i :: operandBytes i

end Sys2Proof
end

