-- ==== Sys2Proof/Machine/Operands.lean ====
section
/-! DEFINITION. What the operands of the command port denote, and the pure functions of the spec over
those values: the DataType codec (40_codec.md), the MessageType classifier (41_classifier.md), RawMessage
framing and the frame and message conversions (42_framing.md). -/

namespace Sys2Proof

/-! ## DataType codec (R110 to R152) -/

/-- The variant of a defined tag, its fields read from the front of the slot: `VARIANT[t].read(d)` of
R112, the decode clauses of R119 to R151. It is asked for tags 0x00..0x20 alone; the last arm is tag
0x20, RESVD. -/
def DataType.read (t : Byte) (d : Quad) : DataType :=
  match t with
  | 0x00#8 => .nodata
  | 0x01#8 => .error (u32 d.b0 d.b1 d.b2 d.b3)
  | 0x02#8 => .float (u32 d.b0 d.b1 d.b2 d.b3)
  | 0x03#8 => .long (u32 d.b0 d.b1 d.b2 d.b3)
  | 0x04#8 => .ulong (u32 d.b0 d.b1 d.b2 d.b3)
  | 0x05#8 => .blong (u32 d.b0 d.b1 d.b2 d.b3)
  | 0x06#8 => .short (u16 d.b0 d.b1)
  | 0x07#8 => .ushort (u16 d.b0 d.b1)
  | 0x08#8 => .bshort (u16 d.b0 d.b1)
  | 0x09#8 => .char d.b0
  | 0x0A#8 => .uchar d.b0
  | 0x0B#8 => .bchar d.b0
  | 0x0C#8 => .short2 (u16 d.b0 d.b1) (u16 d.b2 d.b3)
  | 0x0D#8 => .ushort2 (u16 d.b0 d.b1) (u16 d.b2 d.b3)
  | 0x0E#8 => .bshort2 (u16 d.b0 d.b1) (u16 d.b2 d.b3)
  | 0x0F#8 => .char4 d.b0 d.b1 d.b2 d.b3
  | 0x10#8 => .uchar4 d.b0 d.b1 d.b2 d.b3
  | 0x11#8 => .bchar4 d.b0 d.b1 d.b2 d.b3
  | 0x12#8 => .char2 d.b0 d.b1
  | 0x13#8 => .uchar2 d.b0 d.b1
  | 0x14#8 => .bchar2 d.b0 d.b1
  | 0x15#8 => .memid (u32 d.b0 d.b1 d.b2 d.b3)
  | 0x16#8 => .chksum (u32 d.b0 d.b1 d.b2 d.b3)
  | 0x17#8 => .achar d.b0
  | 0x18#8 => .achar2 d.b0 d.b1
  | 0x19#8 => .achar4 d.b0 d.b1 d.b2 d.b3
  | 0x1A#8 => .char3 d.b0 d.b1 d.b2
  | 0x1B#8 => .uchar3 d.b0 d.b1 d.b2
  | 0x1C#8 => .bchar3 d.b0 d.b1 d.b2
  | 0x1D#8 => .achar3 d.b0 d.b1 d.b2
  | 0x1E#8 => .doubleh (u32 d.b0 d.b1 d.b2 d.b3)
  | 0x1F#8 => .doublel (u32 d.b0 d.b1 d.b2 d.b3)
  | _ => .resvd

/-- decode (R112): total. A defined tag reads its variant; every other tag is the escape, keeping the tag
and the 32-bit value (R152). -/
def DataType.decode (t : Byte) (d : Quad) : DataType :=
  if h : 0x21#8 ≤ t then .udef t h (u32 d.b0 d.b1 d.b2 d.b3) else DataType.read t d

/-- encode (R111): four bytes, fields big-endian and in order, zero past the variant's length. -/
def DataType.encode (v : DataType) : Quad :=
  match v with
  | .nodata => Quad.zero
  | .error e => be32 e
  | .float f => be32 f
  | .long x => be32 x
  | .ulong x => be32 x
  | .blong x => be32 x
  | .short x => ⟨hi8 x, lo8 x, 0x00#8, 0x00#8⟩
  | .ushort x => ⟨hi8 x, lo8 x, 0x00#8, 0x00#8⟩
  | .bshort x => ⟨hi8 x, lo8 x, 0x00#8, 0x00#8⟩
  | .char x => ⟨x, 0x00#8, 0x00#8, 0x00#8⟩
  | .uchar x => ⟨x, 0x00#8, 0x00#8, 0x00#8⟩
  | .bchar x => ⟨x, 0x00#8, 0x00#8, 0x00#8⟩
  | .short2 a b => ⟨hi8 a, lo8 a, hi8 b, lo8 b⟩
  | .ushort2 a b => ⟨hi8 a, lo8 a, hi8 b, lo8 b⟩
  | .bshort2 a b => ⟨hi8 a, lo8 a, hi8 b, lo8 b⟩
  | .char4 a b c e => ⟨a, b, c, e⟩
  | .uchar4 a b c e => ⟨a, b, c, e⟩
  | .bchar4 a b c e => ⟨a, b, c, e⟩
  | .char2 a b => ⟨a, b, 0x00#8, 0x00#8⟩
  | .uchar2 a b => ⟨a, b, 0x00#8, 0x00#8⟩
  | .bchar2 a b => ⟨a, b, 0x00#8, 0x00#8⟩
  | .memid m => be32 m
  | .chksum c => be32 c
  | .achar a => ⟨a, 0x00#8, 0x00#8, 0x00#8⟩
  | .achar2 a b => ⟨a, b, 0x00#8, 0x00#8⟩
  | .achar4 a b c e => ⟨a, b, c, e⟩
  | .char3 a b c => ⟨a, b, c, 0x00#8⟩
  | .uchar3 a b c => ⟨a, b, c, 0x00#8⟩
  | .bchar3 a b c => ⟨a, b, c, 0x00#8⟩
  | .achar3 a b c => ⟨a, b, c, 0x00#8⟩
  | .doubleh h => be32 h
  | .doublel l => be32 l
  | .resvd => Quad.zero
  | .udef _ _ x => be32 x

/-- type_id (R114): the variant's tag of R86, or the tag UDEF carries. -/
def DataType.typeId (v : DataType) : Byte :=
  match v with
  | .nodata => 0x00#8
  | .error _ => 0x01#8
  | .float _ => 0x02#8
  | .long _ => 0x03#8
  | .ulong _ => 0x04#8
  | .blong _ => 0x05#8
  | .short _ => 0x06#8
  | .ushort _ => 0x07#8
  | .bshort _ => 0x08#8
  | .char _ => 0x09#8
  | .uchar _ => 0x0A#8
  | .bchar _ => 0x0B#8
  | .short2 _ _ => 0x0C#8
  | .ushort2 _ _ => 0x0D#8
  | .bshort2 _ _ => 0x0E#8
  | .char4 _ _ _ _ => 0x0F#8
  | .uchar4 _ _ _ _ => 0x10#8
  | .bchar4 _ _ _ _ => 0x11#8
  | .char2 _ _ => 0x12#8
  | .uchar2 _ _ => 0x13#8
  | .bchar2 _ _ => 0x14#8
  | .memid _ => 0x15#8
  | .chksum _ => 0x16#8
  | .achar _ => 0x17#8
  | .achar2 _ _ => 0x18#8
  | .achar4 _ _ _ _ => 0x19#8
  | .char3 _ _ _ => 0x1A#8
  | .uchar3 _ _ _ => 0x1B#8
  | .bchar3 _ _ _ => 0x1C#8
  | .achar3 _ _ _ => 0x1D#8
  | .doubleh _ => 0x1E#8
  | .doublel _ => 0x1F#8
  | .resvd => 0x20#8
  | .udef t _ _ => t

/-- len (R115): the variant's logical width in bytes, as its rule gives it. -/
def DataType.len (v : DataType) : Nat :=
  match v with
  | .nodata => 0
  | .error _ => 4
  | .float _ => 4
  | .long _ => 4
  | .ulong _ => 4
  | .blong _ => 4
  | .short _ => 2
  | .ushort _ => 2
  | .bshort _ => 2
  | .char _ => 1
  | .uchar _ => 1
  | .bchar _ => 1
  | .short2 _ _ => 4
  | .ushort2 _ _ => 4
  | .bshort2 _ _ => 4
  | .char4 _ _ _ _ => 4
  | .uchar4 _ _ _ _ => 4
  | .bchar4 _ _ _ _ => 4
  | .char2 _ _ => 2
  | .uchar2 _ _ => 2
  | .bchar2 _ _ => 2
  | .memid _ => 4
  | .chksum _ => 4
  | .achar _ => 1
  | .achar2 _ _ => 2
  | .achar4 _ _ _ _ => 4
  | .char3 _ _ _ => 3
  | .uchar3 _ _ _ => 3
  | .bchar3 _ _ _ => 3
  | .achar3 _ _ _ => 3
  | .doubleh _ => 4
  | .doublel _ => 4
  | .resvd => 0
  | .udef _ _ _ => 4

/-- The value a DT operand denotes (R91). -/
def DtOperand.value (x : DtOperand) : DataType := DataType.decode x.tag x.d

/-- The canonical form of a DataType (R113): how a DataType result is written on the port (R91). -/
def DataType.canon (v : DataType) : DtOperand := ⟨v.typeId, v.encode⟩

/-! ## Service codes (R88, R198) -/

/-- svc_view (R198): the enumerated view of a service byte. The block holds and moves the raw byte. -/
def svcView (b : Byte) : ServiceView :=
  match b with
  | 0x00#8 => .known .ids
  | 0x01#8 => .known .nss
  | 0x02#8 => .known .dds
  | 0x03#8 => .known .dus
  | 0x04#8 => .known .scs
  | 0x05#8 => .known .tis
  | 0x06#8 => .known .fps
  | 0x07#8 => .known .sts
  | 0x08#8 => .known .fss
  | 0x09#8 => .known .tcs
  | 0x0A#8 => .known .bss
  | 0x0B#8 => .known .nis
  | 0x0C#8 => .known .mis
  | 0x0D#8 => .known .mcs
  | 0x0E#8 => .known .css
  | 0x0F#8 => .known .dss
  | _ => .custom b

/-- The numeric value of a viewed service code, as the encode path takes it (R198). -/
def svcByte (w : ServiceView) : Byte :=
  match w with
  | .known .ids => 0x00#8
  | .known .nss => 0x01#8
  | .known .dds => 0x02#8
  | .known .dus => 0x03#8
  | .known .scs => 0x04#8
  | .known .tis => 0x05#8
  | .known .fps => 0x06#8
  | .known .sts => 0x07#8
  | .known .fss => 0x08#8
  | .known .tcs => 0x09#8
  | .known .bss => 0x0A#8
  | .known .nis => 0x0B#8
  | .known .mis => 0x0C#8
  | .known .mcs => 0x0D#8
  | .known .css => 0x0E#8
  | .known .dss => 0x0F#8
  | .custom b => b

/-! ## MessageType classifier (R170 to R179) -/

/-- The low bound of a class (R170). -/
def MsgClass.lo (c : MsgClass) : Half :=
  match c with
  | .eed => 0#16
  | .nsh => 128#16
  | .udh => 200#16
  | .nod => 300#16
  | .udl => 1800#16
  | .dsd => 1900#16
  | .nsl => 2000#16

/-- The high bound of a class, inclusive (R170). -/
def MsgClass.hi (c : MsgClass) : Half :=
  match c with
  | .eed => 127#16
  | .nsh => 199#16
  | .udh => 299#16
  | .nod => 1799#16
  | .udl => 1899#16
  | .dsd => 1999#16
  | .nsl => 2031#16

/-- The class code (R89). -/
def MsgClass.code (c : MsgClass) : Byte :=
  match c with
  | .eed => 0x00#8
  | .nsh => 0x01#8
  | .udh => 0x02#8
  | .nod => 0x03#8
  | .udl => 0x04#8
  | .dsd => 0x05#8
  | .nsl => 0x06#8

/-- The MessageType an MT operand denotes (R89, R172): a class byte of 0x07 or more is INVALID and its
value is ignored. -/
def MtOperand.type (m : MtOperand) : MessageType :=
  match m.cls with
  | 0x00#8 => .valued .eed m.value
  | 0x01#8 => .valued .nsh m.value
  | 0x02#8 => .valued .udh m.value
  | 0x03#8 => .valued .nod m.value
  | 0x04#8 => .valued .udl m.value
  | 0x05#8 => .valued .dsd m.value
  | 0x06#8 => .valued .nsl m.value
  | _ => .invalid

/-- How a MessageType is written on the port (R89): INVALID is always 07 00 00. -/
def MessageType.operand (mt : MessageType) : MtOperand :=
  match mt with
  | .valued c v => ⟨c.code, v⟩
  | .invalid => ⟨0x07#8, 0x0000#16⟩

/-- classify (R171). -/
def classify (id : Half) : MessageType :=
  if id ≤ 127#16 then .valued .eed id
  else if id ≤ 199#16 then .valued .nsh id
  else if id ≤ 299#16 then .valued .udh id
  else if id ≤ 1799#16 then .valued .nod id
  else if id ≤ 1899#16 then .valued .udl id
  else if id ≤ 1999#16 then .valued .dsd id
  else if id ≤ 2031#16 then .valued .nsl id
  else .invalid

/-- id_of (R173), the validating accessor: none is OUT_OF_RANGE, also for INVALID (R174). -/
def idOf (mt : MessageType) : Option Half :=
  match mt with
  | .valued c v => if c.lo ≤ v ∧ v ≤ c.hi then some v else none
  | .invalid => none

/-- The service classes (R178). -/
def MsgClass.isService (c : MsgClass) : Bool :=
  match c with
  | .eed => false
  | .nsh => true
  | .udh => false
  | .nod => false
  | .udl => false
  | .dsd => false
  | .nsl => true

/-- The channel of an identifier in a service class (R178). -/
def channelOf (c : MsgClass) (id : Half) : Nat := (id.toNat - c.lo.toNat) / 2

/-- The request identifier of a channel (R178). -/
def requestId (c : MsgClass) (k : Nat) : Half := c.lo + BitVec.ofNat 16 (2 * k)

/-- The reply to a request identifier (R179). -/
def replyId (r : Half) : Half := r + 1#16

/-- The service-request test (R229) on a classified frame, whose value is the received identifier (R228):
a service class and an even identifier. -/
def MessageType.isRequest (mt : MessageType) : Bool :=
  match mt with
  | .valued c v => c.isService && decide (v.toNat % 2 = 0)
  | .invalid => false

/-! ## RawMessage framing (R190 to R195) -/

/-- Well-formedness of a RawMessage (R191, R92): plen is at most 4 and every slot byte at or past it is
zero. -/
def RawMessage.wellFormed (r : RawMessage) : Bool :=
  decide (r.plen.toNat ≤ Config.maxPayload)
    && (decide (0 < r.plen.toNat) || decide (r.payload.b0 = 0x00#8))
    && (decide (1 < r.plen.toNat) || decide (r.payload.b1 = 0x00#8))
    && (decide (2 < r.plen.toNat) || decide (r.payload.b2 = 0x00#8))
    && (decide (3 < r.plen.toNat) || decide (r.payload.b3 = 0x00#8))

/-- Payload byte i of a parsed frame (R192): the byte behind the header, or zero past plen. -/
def payloadByte (b : List Byte) (plen i : Nat) : Byte :=
  if i < plen then b.getD (Config.hdrBytes + i) 0x00#8 else 0x00#8

/-- from_bytes (R192): none is MALFORMED_FRAME, for fewer bytes than the header. -/
def RawMessage.fromBytes (b : List Byte) : Option RawMessage :=
  if b.length < Config.hdrBytes then none
  else
    let plen := min b.length Config.frameBytes - Config.hdrBytes
    some
      { nodeId := b.getD 0 0x00#8
        typeTag := b.getD 1 0x00#8
        serviceCode := b.getD 2 0x00#8
        messageCode := b.getD 3 0x00#8
        plen := BitVec.ofNat 8 plen
        payload := ⟨payloadByte b plen 0, payloadByte b plen 1, payloadByte b plen 2, payloadByte b plen 3⟩ }

/-- to_bytes (R193): the wire layout of R84. plen is not sent. -/
def RawMessage.toBytes (r : RawMessage) : Octet :=
  ⟨r.nodeId, r.typeTag, r.serviceCode, r.messageCode, r.payload.b0, r.payload.b1, r.payload.b2, r.payload.b3⟩

/-- empty (R194). -/
def RawMessage.empty : RawMessage := ⟨0x00#8, 0x00#8, 0x00#8, 0x00#8, 0x00#8, Quad.zero⟩

/-! ## Frames and messages (R196 to R204) -/

/-- The frame a FRAME operand denotes (R82, R89). -/
def FrameOperand.frame (f : FrameOperand) : Frame := ⟨f.mt.type, f.raw⟩

/-- How a frame is written on the port (R83). -/
def Frame.operand (f : Frame) : FrameOperand := ⟨f.mt.operand, f.raw⟩

/-- The message a MSG operand denotes (R82, R91). -/
def MsgOperand.message (m : MsgOperand) : Message :=
  ⟨m.mt.type, m.nodeId, m.serviceCode, m.messageCode, m.data.value⟩

/-- How a message is written on the port (R83): its data in canonical form. -/
def Message.operand (m : Message) : MsgOperand :=
  ⟨m.mt.operand, m.nodeId, m.serviceCode, m.messageCode, m.data.canon⟩

/-- message_of (R199): the data is decoded from the stored tag and slot; plen is not read, the
MessageType is not validated, the node id is not changed (R202). -/
def messageOf (f : Frame) : Message :=
  ⟨f.mt, f.raw.nodeId, f.raw.serviceCode, f.raw.messageCode, DataType.decode f.raw.typeTag f.raw.payload⟩

/-- frame_of (R200): plen is the data's length (R201), the node id is not changed (R202). -/
def frameOf (m : Message) : Frame :=
  ⟨m.mt,
    { nodeId := m.nodeId
      typeTag := m.data.typeId
      serviceCode := m.serviceCode
      messageCode := m.messageCode
      plen := BitVec.ofNat 8 m.data.len
      payload := m.data.encode }⟩

/-- cmp (R204): the order of two frames is that of their identifiers; none is OUT_OF_RANGE. -/
def compareFrames (f1 f2 : Frame) : Option Ordering :=
  match idOf f1.mt, idOf f2.mt with
  | some k1, some k2 => some (if k1 < k2 then .lt else if k1 = k2 then .eq else .gt)
  | _, _ => none

/-- The key of a queue entry (R33): its identifier. Every entry the block queues has one (R175); the 0
of an entry that has none is read in no reachable state (log entry 13). -/
def keyOf (e : Frame) : Half := (idOf e.mt).getD 0x0000#16

/-- The data bytes the driver delivered (R40, R227): the first min(dlc, 8). -/
def RxFrame.bytes (rx : RxFrame) : List Byte := rx.data.toList.take (min rx.dlc.toNat Config.frameBytes)

end Sys2Proof
end

