-- ==== Sys2Proof/Machine/State.lean ====
section
/-! DEFINITION. The machine state: the block's registers, receive queue and transmit log as the spec
lists them (R9, R23, R32, R38), beside them the model's own fields for the ports (R40, R42, R83), the
reasons a step can stop, and the state after power-on reset (R300). -/

namespace Sys2Proof.Machine

/-- The reasons a step ends in a fault. There is none: the block never traps and never hangs, every
command completes with a status code (R11, R281), and no command takes an address (R60). -/
inductive Fault
deriving DecidableEq, Repr

/-- The reasons a step is refused. -/
inductive Refusal where
  /-- Raised by `exec` for an instruction that has no meaning yet. Safe. No arm raises it: every
  command has its meaning. -/
  | notModelled (mnemonic : String)
  /-- Raised by `step` when the command port holds fewer bytes than the first command's format needs: a
  partial command is not a transaction and has no step (R80, R320, U4). Safe. -/
  | partialCommand
  /-- Raised by `step` when the host presents a command while another is in flight (R310, R311, U3):
  the spec forbids it and says nothing of what follows. Safe. -/
  | commandOverlap
deriving DecidableEq, Repr

/-- The machine. The first nine fields are the block's architectural state (R9, R23); the last five are
the model's own: the ports and what the environment brings to them. -/
structure State where
  /-- INIT (R24): false in UNINIT, true in IDLE (R220). -/
  init : Bool
  /-- NODE_ID (R25). -/
  nodeId : Byte
  /-- HW_REV (R26). -/
  hwRev : Byte
  /-- SW_REV (R27). -/
  swRev : Byte
  /-- CONFIG (R28). -/
  config : Byte
  /-- HDR_CONFIG (R29). -/
  hdrConfig : Byte
  /-- Q_OVF_CNT (R31). -/
  qOvfCnt : Word
  /-- RQ (R32): entry 0 is the next READ_MSG returns. -/
  rq : List Frame
  /-- TXLOG (R38): every frame passed to the driver, oldest first. -/
  txLog : List TxFrame
  /-- MODEL'S OWN (log entry 2): bytes presented on the command port and not consumed (R80). -/
  cmdIn : List Byte
  /-- MODEL'S OWN (log entry 3): the responses returned so far, oldest first, each as its bytes (R83). -/
  resp : List (List Byte)
  /-- MODEL'S OWN (log entry 4): the driver's coming poll answers, as the environment fixes them (R40). -/
  rxIn : List (Option RxFrame)
  /-- MODEL'S OWN (log entry 4): how many polls the block has made. -/
  polls : Nat
  /-- MODEL'S OWN (log entry 6): the host has presented a command while another is in flight (R310). -/
  overlap : Bool
deriving DecidableEq, Repr

/-- Power-on reset (R44, R300): INIT is 0 and TXLOG is empty. The spec leaves the other seven
architectural items unspecified and unreadable before NODE_INIT: their values here are a DESIGN CHOICE
(log entry 8). The ports are empty (log entry 9). -/
def State.reset : State where
  init := false
  nodeId := 0x00#8
  hwRev := 0x00#8
  swRev := 0x00#8
  config := 0x00#8
  hdrConfig := 0x00#8
  qOvfCnt := 0x00000000#32
  rq := []
  txLog := []
  cmdIn := []
  resp := []
  rxIn := []
  polls := 0
  overlap := false

end Sys2Proof.Machine
end

