-- ==== Sys2Proof/Machine/Ops.lean ====
section
/-! DEFINITION. The shared operations of the machine: answering a command, failing a command (the
block's one form of exception, R14, R272; there is no return from one, R282), the two driver ports, and
the receive queue. -/

namespace Sys2Proof.Machine

/-! ## Completing a command -/

/-- A response leaves the command port (R42, R83). -/
def respond (s : State) (bytes : List Byte) : State := { s with resp := s.resp ++ [bytes] }

/-- Completion with status OK and the result bytes (R83). -/
def completeOk (s : State) (result : List Byte) : State := respond s (statusCode .ok :: result)

/-- `raise` (R14, R272): completion with a status other than OK. The response is the status byte alone,
no state is written, and the block is ready for the next command. NONE is given the same way (R277). -/
def raise (s : State) (st : Status) : State := respond s [statusCode st]

/-- The guard of every node-engine command but NODE_INIT (R24, R275): NOT_INITIALIZED while INIT is 0. -/
def whenInit (s : State) (done : State) : State :=
  if s.init then done else raise s .notInitialized

/-- An illegal opcode (R93, R276): the command consumes its opcode byte, leaving `rest`, and completes
with ILLEGAL_COMMAND in both engine states. -/
def execIllegal (rest : List Byte) (s : State) : State := raise { s with cmdIn := rest } .illegalCommand

/-! ## The driver ports -/

/-- The driver's answer to the next poll (R40): the environment's, where it fixes one, else the free
value of this poll. -/
def pollAnswer (s : State) : Option RxFrame :=
  match s.rxIn with
  | a :: _ => a
  | [] => Config.driverAnswer s.polls

/-- The state after a poll: the answer has left the driver (R40, R68). -/
def afterPoll (s : State) : State := { s with rxIn := s.rxIn.tail, polls := s.polls + 1 }

/-- Transmit (R41): append to TXLOG. -/
def transmit (s : State) (tx : TxFrame) : State := { s with txLog := s.txLog ++ [tx] }

/-- The txframe that carries a RawMessage under an identifier (R41): dlc is always 8. -/
def txFrame (id : Half) (raw : RawMessage) : TxFrame := ⟨id, 8#4, raw.toBytes⟩

/-! ## The receive queue -/

/-- Where a frame of key `k` goes in the queue (R235). FIFO: after every entry whose key is at most `k`.
ANY: at the place `choice` picks among those between the entries of smaller and of greater key. -/
def insertIndex (order : EqualKeyOrder) (choice : Nat) (q : List Frame) (k : Half) : Nat :=
  let below := q.countP (fun e => decide (keyOf e < k))
  let upto := q.countP (fun e => decide (keyOf e ≤ k))
  match order with
  | .fifo => upto
  | .any => below + choice % (upto - below + 1)

/-- The queue with `f` put at index `j` (R235). -/
def insertFrame (q : List Frame) (f : Frame) (j : Nat) : List Frame := q.take j ++ f :: q.drop j

/-- overflow (R236): the incoming frame is dropped and counted, modulo 2^32 (R31). -/
def overflow (s : State) : State × Disposition :=
  ({ s with qOvfCnt := s.qOvfCnt + 1#32 }, .droppedQueueFull)

/-- push (R235). -/
def push (s : State) (f : Frame) : State × Disposition :=
  if s.rq.length = Config.qcap then overflow s
  else
    let j := insertIndex Config.equalKeyOrder (Config.equalKeyChoice s.polls) s.rq (keyOf f)
    ({ s with rq := insertFrame s.rq f j }, .queued)

/-! ## Receive dispatch (R226 to R236) -/

/-- The RawMessage of the identification reply to a request (R232). -/
def idsReplyRaw (s : State) (f : Frame) : RawMessage :=
  { nodeId := s.nodeId
    typeTag := Config.idsReplyTag
    serviceCode := Config.idsCode
    messageCode := f.raw.messageCode
    plen := 4#8
    payload := ⟨s.hwRev, s.swRev, s.config, s.hdrConfig⟩ }

/-- ids_reply (R232): identifier one above the request's (R179). -/
def idsReply (s : State) (f : Frame) : TxFrame := txFrame (replyId (keyOf f)) (idsReplyRaw s f)

/-- A service request whose target matches (R231, R233): IDS is answered, any other code is queued. -/
def serveRequest (s : State) (f : Frame) : State × Disposition :=
  if f.raw.serviceCode = Config.idsCode then (transmit s (idsReply s f), .answeredIds)
  else push s f

/-- A service request for another node (R230): discarded under DISCARD_ALL_SERVICES; under QUEUE_NON_IDS
one that is not IDS is queued. -/
def otherNodeRequest (policy : NonmatchReqPolicy) (s : State) (f : Frame) : State × Disposition :=
  match policy with
  | .discardAllServices => (s, .discardedOtherNode)
  | .queueNonIds => if f.raw.serviceCode = Config.idsCode then (s, .discardedOtherNode) else push s f

/-- The target test (R229): the node's own id or the broadcast id. -/
def targetMatches (s : State) (f : Frame) : Bool :=
  decide (f.raw.nodeId = s.nodeId) || decide (f.raw.nodeId = Config.broadcastId)

/-- The dispatch of a parsed and classified frame (R229 to R234). -/
def dispatchFrame (s : State) (f : Frame) : State × Disposition :=
  if f.mt.isRequest then
    if targetMatches s f then serveRequest s f
    else otherNodeRequest Config.nonmatchReqPolicy s f
  else push s f

/-- What the block does with a polled frame (R226): parse (R227), classify (R228), dispatch. -/
def receive (s : State) (rx : RxFrame) : State × Disposition :=
  match RawMessage.fromBytes rx.bytes with
  | none => (s, .discardedMalformed)
  | some r =>
    if classify rx.id = .invalid then (s, .discardedInvalidId)
    else dispatchFrame s ⟨classify rx.id, r⟩

end Sys2Proof.Machine
end

