-- ==== Sys2Proof/Machine/Classifier.lean ====
section
/-! DEFINITION. The two MessageType classifier commands (R176, R177). They are pure (R68, R305). -/

namespace Sys2Proof.Machine

/-- MT_CLASSIFY (R176). -/
def execMtClassify (id : Half) (s : State) : Host.Outcome State Fault Refusal :=
  .next (completeOk s (classify id).operand.bytes)

/-- MT_ID (R177): the validating accessor. -/
def execMtId (m : MtOperand) (s : State) : Host.Outcome State Fault Refusal :=
  .next
    (match idOf m.type with
    | none => raise s .outOfRange
    | some v => completeOk s (be16 v))

end Sys2Proof.Machine
end

