-- ==== Sys2Proof/Machine/Codec.lean ====
section
/-! DEFINITION. The four DataType codec commands (R154 to R157). They are pure (R68, R305). -/

namespace Sys2Proof.Machine

/-- DT_ENCODE (R154): the tag and the encoded bytes. -/
def execDtEncode (x : DtOperand) (s : State) : Host.Outcome State Fault Refusal :=
  .next (completeOk s (x.value.typeId :: x.value.encode.toList))

/-- DT_DECODE (R155): the decoded value in canonical form. -/
def execDtDecode (x : DtOperand) (s : State) : Host.Outcome State Fault Refusal :=
  .next (completeOk s (DataType.decode x.tag x.d).canon.bytes)

/-- DT_TYPE_ID (R156). -/
def execDtTypeId (x : DtOperand) (s : State) : Host.Outcome State Fault Refusal :=
  .next (completeOk s [x.value.typeId])

/-- DT_LEN (R157). -/
def execDtLen (x : DtOperand) (s : State) : Host.Outcome State Fault Refusal :=
  .next (completeOk s [BitVec.ofNat 8 x.value.len])

end Sys2Proof.Machine
end

