-- ==== Sys2Proof/Machine/Framing.lean ====
section
/-! DEFINITION. The six framing, conversion and order commands (R205 to R210). They are pure (R68, R305). -/

namespace Sys2Proof.Machine

/-- RAW_FROM_BYTES (R205). -/
def execRawFromBytes (b : List Byte) (s : State) : Host.Outcome State Fault Refusal :=
  .next
    (match RawMessage.fromBytes b with
    | none => raise s .malformedFrame
    | some r => completeOk s r.bytes)

/-- RAW_TO_BYTES (R206). -/
def execRawToBytes (r : RawMessage) (s : State) : Host.Outcome State Fault Refusal :=
  .next (if r.wellFormed then completeOk s r.toBytes.toList else raise s .malformedFrame)

/-- RAW_EMPTY (R207). -/
def execRawEmpty (s : State) : Host.Outcome State Fault Refusal :=
  .next (completeOk s RawMessage.empty.bytes)

/-- MSG_FROM_FRAME (R208): the MessageType is not validated. -/
def execMsgFromFrame (f : FrameOperand) (s : State) : Host.Outcome State Fault Refusal :=
  .next
    (if f.raw.wellFormed then completeOk s (messageOf f.frame).operand.bytes
    else raise s .malformedFrame)

/-- MSG_TO_FRAME (R209): the MessageType is not validated. -/
def execMsgToFrame (m : MsgOperand) (s : State) : Host.Outcome State Fault Refusal :=
  .next (completeOk s (frameOf m.message).operand.bytes)

/-- FRAME_CMP (R210): both RAW operands are checked before either MessageType (R279). -/
def execFrameCmp (f1 f2 : FrameOperand) (s : State) : Host.Outcome State Fault Refusal :=
  .next
    (if f1.raw.wellFormed && f2.raw.wellFormed then
      match compareFrames f1.frame f2.frame with
      | none => raise s .outOfRange
      | some o => completeOk s [orderCode o]
    else raise s .malformedFrame)

end Sys2Proof.Machine
end

