-- ==== Sys2Proof/Machine/Node.lean ====
section
/-! DEFINITION. The nine node-engine commands (43_node_engine.md, R220 to R243). -/

namespace Sys2Proof.Machine

/-- NODE_INIT (R221, R301): the node is built, or built anew. The driver is not polled and TXLOG stays. -/
def execNodeInit (n : Byte) (s : State) : Host.Outcome State Fault Refusal :=
  .next (completeOk
    { s with
      init := true
      nodeId := n
      hwRev := 0x00#8
      swRev := 0x00#8
      config := 0x00#8
      hdrConfig := 0x00#8
      qOvfCnt := 0#32
      rq := [] } [])

/-- SET_HW_REV (R222). -/
def execSetHwRev (v : Byte) (s : State) : Host.Outcome State Fault Refusal :=
  .next (whenInit s (completeOk { s with hwRev := v } []))

/-- SET_SW_REV (R223). -/
def execSetSwRev (v : Byte) (s : State) : Host.Outcome State Fault Refusal :=
  .next (whenInit s (completeOk { s with swRev := v } []))

/-- SET_CONFIG (R224). -/
def execSetConfig (v : Byte) (s : State) : Host.Outcome State Fault Refusal :=
  .next (whenInit s (completeOk { s with config := v } []))

/-- SET_HDR_CONFIG (R225). -/
def execSetHdrConfig (v : Byte) (s : State) : Host.Outcome State Fault Refusal :=
  .next (whenInit s (completeOk { s with hdrConfig := v } []))

/-- NOTIFY_RX (R226, R242): one poll, at most one frame handled, and its disposition returned. In UNINIT
the driver is not polled (R275). -/
def execNotifyRx (s : State) : Host.Outcome State Fault Refusal :=
  .next (whenInit s
    (match pollAnswer s with
    | none => completeOk (afterPoll s) [dispositionCode .noFrame]
    | some rx =>
      let (t, d) := receive (afterPoll s) rx
      completeOk t [dispositionCode d]))

/-- SEND_MSG (R237): the identifier is validated, the message framed and transmitted. The node id is sent
as given (R238). -/
def execSendMsg (m : MsgOperand) (s : State) : Host.Outcome State Fault Refusal :=
  .next (whenInit s
    (match idOf m.message.mt with
    | none => raise s .outOfRange
    | some k => completeOk (transmit s (txFrame k (frameOf m.message).raw)) []))

/-- READ_MSG (R239): the head of RQ is removed and decoded; NONE where RQ is empty (R277). -/
def execReadMsg (s : State) : Host.Outcome State Fault Refusal :=
  .next (whenInit s
    (match s.rq with
    | [] => raise s .none
    | f :: rest => completeOk { s with rq := rest } (messageOf f).operand.bytes))

/-- READ_STATUS (R240): the length of RQ in one byte, then Q_OVF_CNT big-endian. -/
def execReadStatus (s : State) : Host.Outcome State Fault Refusal :=
  .next (whenInit s (completeOk s (BitVec.ofNat 8 s.rq.length :: (be32 s.qOvfCnt).toList)))

end Sys2Proof.Machine
end

