-- ==== Sys2Proof/Machine/Dispatch.lean ====
section
/-! DEFINITION. The dispatch of a command to its meaning, one arm per constructor of Instr. -/

namespace Sys2Proof.Machine

/-- The meaning of a command at a state (R10, R81). -/
def exec (i : Instr) (s : State) : Host.Outcome State Fault Refusal :=
  match i with
  | .nodeInit n => Sys2Proof.Machine.execNodeInit n s
  | .setHwRev v => Sys2Proof.Machine.execSetHwRev v s
  | .setSwRev v => Sys2Proof.Machine.execSetSwRev v s
  | .setConfig v => Sys2Proof.Machine.execSetConfig v s
  | .setHdrConfig v => Sys2Proof.Machine.execSetHdrConfig v s
  | .notifyRx => Sys2Proof.Machine.execNotifyRx s
  | .sendMsg m => Sys2Proof.Machine.execSendMsg m s
  | .readMsg => Sys2Proof.Machine.execReadMsg s
  | .readStatus => Sys2Proof.Machine.execReadStatus s
  | .dtEncode x => Sys2Proof.Machine.execDtEncode x s
  | .dtDecode x => Sys2Proof.Machine.execDtDecode x s
  | .dtTypeId x => Sys2Proof.Machine.execDtTypeId x s
  | .dtLen x => Sys2Proof.Machine.execDtLen x s
  | .mtClassify id => Sys2Proof.Machine.execMtClassify id s
  | .mtId m => Sys2Proof.Machine.execMtId m s
  | .rawFromBytes b => Sys2Proof.Machine.execRawFromBytes b s
  | .rawToBytes r => Sys2Proof.Machine.execRawToBytes r s
  | .rawEmpty => Sys2Proof.Machine.execRawEmpty s
  | .msgFromFrame f => Sys2Proof.Machine.execMsgFromFrame f s
  | .msgToFrame m => Sys2Proof.Machine.execMsgToFrame m s
  | .frameCmp f1 f2 => Sys2Proof.Machine.execFrameCmp f1 f2 s

end Sys2Proof.Machine
end

