-- ==== Sys2Proof/Machine/Step.lean ====
section
/-! DEFINITION. One step of the machine: the first command on the command port is decoded, consumed and
run as one indivisible step (R42, R66). -/

namespace Sys2Proof.Machine

/-- One step. With nothing presented the block waits, unchanged (R21, R290, R302). Overlapping commands
and partial commands are refused (R310, R320). An illegal opcode completes with ILLEGAL_COMMAND (R276). -/
def step (s : State) : Host.Outcome State Fault Refusal :=
  if s.overlap then .refused .commandOverlap
  else
    match decode s.cmdIn with
    | .idle => .next s
    | .partialCommand => .refused .partialCommand
    | .illegalOpcode _ rest => .next (execIllegal rest s)
    | .instr i rest => exec i { s with cmdIn := rest }

/-- `s` with the instruction whose bits are `w` at the front of the command port, presented alone (log
entry 17). What the host had presented before stands behind it. -/
def State.withFetchWord (s : State) (nbits w : Nat) : State :=
  { s with cmdIn := tableWordBytes nbits w ++ s.cmdIn, overlap := false }

end Sys2Proof.Machine
end

