-- ==== Sys2Proof/Safety.lean ====
section
/-! DEFINITION. What counts as a good state and a safe run, in the terms claims use: the state invariant
of R45, what the block may have sent and answered, the statuses a command may produce (R271), and the
relation under which the power-on contents cannot be seen (R44). -/

namespace Sys2Proof.Machine

/-- A queue entry is a frame whose class range contains its value and whose RawMessage is well formed
(R33, R45). -/
def frameValid (f : Frame) : Bool := (idOf f.mt).isSome && f.raw.wellFormed

/-- Keys do not decrease along the queue (R34). -/
abbrev keysAscend (q : List Frame) : Prop := q.Pairwise (fun a b => keyOf a ≤ keyOf b)

/-- The receive queue as R45 asks: bounded, ordered, every entry valid. -/
abbrev queueOk (q : List Frame) : Prop :=
  q.length ≤ Config.qcap ∧ keysAscend q ∧ ∀ f ∈ q, frameValid f = true

/-- The state invariant (R45). It speaks of states with INIT = 1. -/
abbrev Inv (s : State) : Prop := s.init = true → queueOk s.rq

/-- Every frame the block has passed to the driver has dlc 8 and an identifier of one of the seven
classes (R41, R170). -/
abbrev txLogOk (s : State) : Prop := ∀ tx ∈ s.txLog, tx.dlc = 8#4 ∧ tx.id.toNat ≤ 2031

/-- A response is well shaped: a status byte of R270, and nothing after it unless it is OK (R83). -/
def responseOk (r : List Byte) : Bool :=
  match r with
  | [] => false
  | st :: result => decide (st.toNat ≤ 5) && (decide (st = statusCode .ok) || result.isEmpty)

/-- The statuses a command may complete with: the table of R271. -/
def statusesOf (i : Instr) : List Status :=
  match i with
  | .nodeInit _ => [.ok]
  | .setHwRev _ => [.ok, .notInitialized]
  | .setSwRev _ => [.ok, .notInitialized]
  | .setConfig _ => [.ok, .notInitialized]
  | .setHdrConfig _ => [.ok, .notInitialized]
  | .notifyRx => [.ok, .notInitialized]
  | .sendMsg _ => [.ok, .outOfRange, .notInitialized]
  | .readMsg => [.ok, .none, .notInitialized]
  | .readStatus => [.ok, .notInitialized]
  | .dtEncode _ => [.ok]
  | .dtDecode _ => [.ok]
  | .dtTypeId _ => [.ok]
  | .dtLen _ => [.ok]
  | .mtClassify _ => [.ok]
  | .mtId _ => [.ok, .outOfRange]
  | .rawFromBytes _ => [.ok, .malformedFrame]
  | .rawToBytes _ => [.ok, .malformedFrame]
  | .rawEmpty => [.ok]
  | .msgFromFrame _ => [.ok, .malformedFrame]
  | .msgToFrame _ => [.ok]
  | .frameCmp _ _ => [.ok, .malformedFrame, .outOfRange]

/-- The number of result bytes of a command that completes OK: the tables of R81 and R83. -/
def resultLength (i : Instr) : Nat :=
  match i with
  | .nodeInit _ => 0
  | .setHwRev _ => 0
  | .setSwRev _ => 0
  | .setConfig _ => 0
  | .setHdrConfig _ => 0
  | .notifyRx => 1
  | .sendMsg _ => 0
  | .readMsg => 11
  | .readStatus => 5
  | .dtEncode _ => 5
  | .dtDecode _ => 5
  | .dtTypeId _ => 1
  | .dtLen _ => 1
  | .mtClassify _ => 3
  | .mtId _ => 2
  | .rawFromBytes _ => 9
  | .rawToBytes _ => 8
  | .rawEmpty => 9
  | .msgFromFrame _ => 11
  | .msgToFrame _ => 12
  | .frameCmp _ _ => 1

/-- The width in bytes of a tag's value: the table of R86. -/
def tagWidth (t : Nat) : Nat :=
  if t ∈ [0x00, 0x20] then 0
  else if t ∈ [0x09, 0x0A, 0x0B, 0x17] then 1
  else if t ∈ [0x06, 0x07, 0x08, 0x12, 0x13, 0x14, 0x18] then 2
  else if t ∈ [0x1A, 0x1B, 0x1C, 0x1D] then 3
  else 4

/-- `zero_from` (R113): bytes at index w and up cleared. -/
def zeroFrom (w : Nat) (d : Quad) : Quad :=
  ⟨if 0 < w then d.b0 else 0x00#8, if 1 < w then d.b1 else 0x00#8,
    if 2 < w then d.b2 else 0x00#8, if 3 < w then d.b3 else 0x00#8⟩

/-- `variantRow t w d e v`: on slot `d`, tag `t` reads as `v`, which writes back as `e`, has length `w` and
type id `t`. One such row is a variant rule of 40_codec.md (R119 to R152). -/
abbrev variantRow (t : Byte) (w : Nat) (d e : Quad) (v : DataType) : Prop :=
  DataType.decode t d = v ∧ v.encode = e ∧ v.len = w ∧ v.typeId = t

/-- A class number and a value within that class's range: the tables of R89 and R170, in numbers. -/
abbrev classHolds (cls v : Nat) : Prop :=
  (cls = 0 ∧ v ≤ 127) ∨ (cls = 1 ∧ 128 ≤ v ∧ v ≤ 199) ∨ (cls = 2 ∧ 200 ≤ v ∧ v ≤ 299) ∨
  (cls = 3 ∧ 300 ≤ v ∧ v ≤ 1799) ∨ (cls = 4 ∧ 1800 ≤ v ∧ v ≤ 1899) ∨ (cls = 5 ∧ 1900 ≤ v ∧ v ≤ 1999) ∨
  (cls = 6 ∧ 2000 ≤ v ∧ v ≤ 2031)

/-- How an MT operand comes back on the port (R89, R208): unchanged, but INVALID is 07 00 00. -/
def mtEcho (m : MtOperand) : List Byte :=
  if m.cls.toNat ≤ 6 then [m.cls, hi8 m.value, lo8 m.value] else [0x07#8, 0x00#8, 0x00#8]

/-- Well-formedness of a RAW operand in the words of R92. -/
abbrev rawOk (r : RawMessage) : Prop :=
  r.plen.toNat ≤ 4 ∧ ∀ i (h : i < 4), r.plen.toNat ≤ i → r.payload.toList[i] = 0x00#8

/-- A service-request identifier (R178, R229): even, in NSH or NSL. -/
abbrev requestIdentifier (id : Nat) : Prop :=
  id % 2 = 0 ∧ ((128 ≤ id ∧ id ≤ 199) ∨ (2000 ≤ id ∧ id ≤ 2031))

/-- The number of data bytes of a received frame (R40). -/
def dataLength (rx : RxFrame) : Nat := if rx.dlc.toNat ≤ 8 then rx.dlc.toNat else 8

/-- The frame a receive event makes of at least four data bytes (R192, R228). -/
def receivedFrame (rx : RxFrame) : Frame :=
  ⟨classify rx.id,
    ⟨rx.data.b0, rx.data.b1, rx.data.b2, rx.data.b3, BitVec.ofNat 8 (dataLength rx - 4),
      zeroFrom (dataLength rx - 4) ⟨rx.data.b4, rx.data.b5, rx.data.b6, rx.data.b7⟩⟩⟩

/-- The target of a received frame is this node or every node (R229). -/
abbrev addressed (s : State) (rx : RxFrame) : Prop := rx.data.b0 = s.nodeId ∨ rx.data.b0 = 0x00#8

/-- A received frame that is for RQ (R233, R234): a valid identifier, and no service request but one
that is addressed to the node and is not IDS. -/
abbrev forQueue (s : State) (rx : RxFrame) : Prop :=
  4 ≤ rx.dlc.toNat ∧ rx.id.toNat ≤ 2031 ∧
  (requestIdentifier rx.id.toNat → addressed s rx ∧ rx.data.b2 ≠ 0x00#8)

/-- The queue with one frame more, in the words of R235: behind every entry of a key at most its own, in
front of every entry of a greater one. -/
def queueWith (q : List Frame) (f : Frame) : List Frame :=
  q.filter (fun e => decide (keyOf e ≤ keyOf f)) ++ f :: q.filter (fun e => decide (keyOf f < keyOf e))

/-- The queue after the frames of a list arrived one by one, none dropped (R34, R235). -/
def queueAfter (arrivals : List Frame) : List Frame :=
  arrivals.foldl (fun q f => insertFrame q f (insertIndex .fifo 0 q (keyOf f))) []

/-- Two states that differ at most in what R44 leaves unspecified: everything outside the node registers
and RQ is equal, and those are equal too once INIT is 1. -/
abbrev sameButPowerOnContents (s t : State) : Prop :=
  (s.init, s.txLog, s.cmdIn, s.resp) = (t.init, t.txLog, t.cmdIn, t.resp) ∧
  (s.rxIn, s.polls, s.overlap) = (t.rxIn, t.polls, t.overlap) ∧
  (s.init = true →
    (s.nodeId, s.hwRev, s.swRev, s.config) = (t.nodeId, t.hwRev, t.swRev, t.config) ∧
    (s.hdrConfig, s.qOvfCnt, s.rq) = (t.hdrConfig, t.qOvfCnt, t.rq))

end Sys2Proof.Machine
end

