-- ==== Sys2Proof/Certificates/Slice0/Obligations.lean ====
section
/-! DEFINITION. The statements for the provers. Each says in its docstring which rule of spec/ it
formalises, or that it is derived, and where it rests on a choice of the model. -/

open Sys2Proof Sys2Proof.Machine

/-! ## The command port -/

/-- Derived from R80, R81, R82, R98. Encoding a well-formed command and decoding the bytes gives the
command and leaves what follows it, with every operand at every value. -/
def Obligations.DecodeOfEncodeIsTheCommand : Prop :=
  ∀ (i : Instr) (rest : List Byte), i.wellFormed = true → decode (encode i ++ rest) = .instr i rest

/-- Derived from R80, R81, R82. A command that decodes is well formed, and the bytes it was read from
are its own encoding: no bit of a command is dropped. -/
def Obligations.DecodedBytesAreTheEncoding : Prop :=
  ∀ (bs rest : List Byte) (i : Instr), decode bs = .instr i rest →
    i.wellFormed = true ∧ bs = encode i ++ rest

/-- Derived from R82 and R95. The opcode fixes the length of a command, and for F_SEQ the length byte is
added: the lengths of the format table, in numbers. -/
def Obligations.OpcodeFixesTheCommandLength : Prop :=
  ∀ (op : Byte) (bs rest : List Byte) (i : Instr), decode (op :: bs) = .instr i rest →
    (op :: bs).length = rest.length +
      (if op.toNat ∈ [0x06, 0x08, 0x09, 0x32] then 1
      else if op.toNat ∈ [0x01, 0x02, 0x03, 0x04, 0x05] then 2
      else if op.toNat = 0x20 then 3
      else if op.toNat = 0x21 then 4
      else if op.toNat ∈ [0x10, 0x11, 0x12, 0x13] then 6
      else if op.toNat = 0x31 then 10
      else if op.toNat ∈ [0x07, 0x41] then 12
      else if op.toNat = 0x40 then 13
      else if op.toNat = 0x42 then 25
      else 2 + (bs.headD 0x00#8).toNat)

/-- R93, R276. Exactly the listed opcode bytes are illegal; one completes with ILLEGAL_COMMAND in both
engine states, consumes its own byte, so that the byte after it is the next opcode, and writes nothing. -/
def Obligations.IllegalOpcodeCompletesAndConsumesOneByte : Prop :=
  ∀ (op : Byte) (bs : List Byte),
    let illegal := op.toNat = 0x00 ∨ (0x0A ≤ op.toNat ∧ op.toNat ≤ 0x0F) ∨ (0x14 ≤ op.toNat ∧ op.toNat ≤ 0x1F) ∨
      (0x22 ≤ op.toNat ∧ op.toNat ≤ 0x2F) ∨ (0x33 ≤ op.toNat ∧ op.toNat ≤ 0x3F) ∨ 0x43 ≤ op.toNat
    (decode (op :: bs) = .illegalOpcode op bs ↔ illegal) ∧
    ∀ s : State, s.overlap = false → s.cmdIn = op :: bs → illegal →
      step s = .next { s with cmdIn := bs, resp := s.resp ++ [[0x05#8]] }

/-- R99. The worked encoding decodes to the SEND_MSG it stands for, and on an initialised node that
command transmits the frame the rule gives. -/
def Obligations.WorkedEncodingOfSendMsg : Prop :=
  let i := Instr.sendMsg ⟨⟨0x03#8, 0x012C#16⟩, 0x0A#8, 0xFF#8, 0x00#8, ⟨0x0D#8, ⟨0xDE#8, 0xAD#8, 0xBE#8, 0xEF#8⟩⟩⟩
  encode i = [0x07#8, 0x03#8, 0x01#8, 0x2C#8, 0x0A#8, 0xFF#8, 0x00#8, 0x0D#8, 0xDE#8, 0xAD#8, 0xBE#8, 0xEF#8] ∧
  decode (encode i) = .instr i [] ∧
  ∀ s : State, s.init = true →
    exec i s = .next { s with
      txLog := s.txLog ++ [⟨0x012C#16, 8#4, ⟨0x0A#8, 0x0D#8, 0xFF#8, 0x00#8, 0xDE#8, 0xAD#8, 0xBE#8, 0xEF#8⟩⟩]
      resp := s.resp ++ [[0x00#8]] }

/-- Derived from the examples of R154, R176, R177, R205, R206, R208, R221. The words of those examples
decode to the commands they stand for. -/
def Obligations.SampleCommandsDecode : Prop :=
  decode [0x01#8, 0x0A#8] = .instr (.nodeInit 10#8) [] ∧
  decode [0x06#8, 0x08#8] = .instr .notifyRx [0x08#8] ∧
  decode [0x10#8, 0x06#8, 0x00#8, 0x05#8, 0xAA#8, 0xBB#8] =
    .instr (.dtEncode ⟨0x06#8, ⟨0x00#8, 0x05#8, 0xAA#8, 0xBB#8⟩⟩) [] ∧
  decode [0x20#8, 0x01#8, 0x29#8] = .instr (.mtClassify 297#16) [] ∧
  decode [0x21#8, 0x01#8, 0x00#8, 0x7F#8] = .instr (.mtId ⟨0x01#8, 127#16⟩) [] ∧
  decode [0x30#8, 0x03#8, 0x0A#8, 0x06#8, 0x00#8] = .instr (.rawFromBytes [0x0A#8, 0x06#8, 0x00#8]) [] ∧
  decode [0x31#8, 0x0A#8, 0x06#8, 0x00#8, 0x01#8, 0x01#8, 0x7F#8, 0x00#8, 0x00#8, 0x00#8] =
    .instr (.rawToBytes ⟨0x0A#8, 0x06#8, 0x00#8, 0x01#8, 0x01#8, ⟨0x7F#8, 0x00#8, 0x00#8, 0x00#8⟩⟩) [] ∧
  decode [0x40#8, 0x03#8, 0x01#8, 0x2C#8, 0x0A#8, 0x0D#8, 0xFF#8, 0x00#8, 0x04#8, 0xDE#8, 0xAD#8, 0xBE#8, 0xEF#8] =
    .instr (.msgFromFrame ⟨⟨0x03#8, 300#16⟩,
      ⟨0x0A#8, 0x0D#8, 0xFF#8, 0x00#8, 0x04#8, ⟨0xDE#8, 0xAD#8, 0xBE#8, 0xEF#8⟩⟩⟩) []

/-- Derived from R42 and R66; that the bytes consumed leave `cmdIn` is the model's (log entry 2). When the
bytes on the command port decode to a command, one step is the meaning of that command, on the state from
which the command's bytes have been taken. -/
def Obligations.StepRunsTheDecodedCommand : Prop :=
  ∀ (s : State) (i : Instr) (rest : List Byte), s.overlap = false → decode s.cmdIn = .instr i rest →
    step s = exec i { s with cmdIn := rest }

/-- Derived from R21, R290, R302; the waiting step is the model's (log entry 2). With no byte presented
the block waits and holds its state. -/
def Obligations.EmptyPortHoldsTheState : Prop :=
  ∀ s : State, s.overlap = false → s.cmdIn = [] → step s = .next s

/-- Derived from R80, R320 (U4). Fewer bytes than a command's format needs are refused: every proper,
non-empty front part of a well-formed command's encoding. -/
def Obligations.PartialCommandHasNoStep : Prop :=
  ∀ (s : State) (i : Instr) (k : Nat), i.wellFormed = true → 0 < k → k < (encode i).length →
    s.overlap = false → s.cmdIn = (encode i).take k → step s = .refused .partialCommand

/-- Derived from R310 (U3); the field `overlap` is the model's (log entry 6). Two commands in flight are
refused. -/
def Obligations.OverlappingCommandsAreRefused : Prop :=
  ∀ s : State, s.overlap = true → step s = .refused .commandOverlap

/-- Derived from R11, R281, R310, R320. The block never traps, and a step stops only where the host
breaks its duty: two commands in flight, or a partial command. -/
def Obligations.OnlyTheHostCanStopTheBlock : Prop :=
  ∀ s : State,
    (∃ t, step s = .next t) ∨
    (step s = .refused .commandOverlap ∧ s.overlap = true) ∨
    (step s = .refused .partialCommand ∧ s.overlap = false ∧ decode s.cmdIn = .partialCommand)

/-! ## Rules of the whole machine -/

/-- R271, R272. Every command, in every state, completes with one response, whose status is in its row
of R271's table, and with the result bytes of R83 on OK alone; a command that completes with another
status writes no state, sends nothing and polls nothing. An illegal opcode gives ILLEGAL_COMMAND. -/
def Obligations.EveryCommandCompletesWithinItsStatuses : Prop :=
  (∀ (i : Instr) (s : State), ∃ (st : Status) (result : List Byte) (t : State),
    exec i s = .next t ∧ t.resp = s.resp ++ [statusCode st :: result] ∧ st ∈ statusesOf i ∧
    (st = .ok → result.length = resultLength i) ∧
    (st ≠ .ok → result = [] ∧ t = { s with resp := t.resp })) ∧
  ∀ (s : State) (op : Byte) (rest : List Byte), s.overlap = false → decode s.cmdIn = .illegalOpcode op rest →
    step s = .next { s with cmdIn := rest, resp := s.resp ++ [[0x05#8]] }

/-- R305. A command of opcode 0x10 and up gives one response, the same in every state, and changes
nothing else. -/
def Obligations.CodecCommandsReadNoState : Prop :=
  ∀ i : Instr, 0x10 ≤ (opcode i).toNat →
    ∃ r : List Byte, ∀ s : State, exec i s = .next { s with resp := s.resp ++ [r] }

/-- Derived from R44 and R300. Runs of any length from states that differ only in what power-on leaves
unspecified end alike, in states that are so related again: the power-on contents reach no response, no
transmitted frame and no refusal, so the values State.reset gives them (log entry 8) cannot be seen. -/
def Obligations.PowerOnContentsReachNoObservation : Prop :=
  ∀ (k : Nat) (s t : State), sameButPowerOnContents s t →
    (∀ s' : State, Sys2Proof.core.run k s = .next s' →
      ∃ t' : State, Sys2Proof.core.run k t = .next t' ∧ sameButPowerOnContents s' t') ∧
    (∀ r : Refusal, Sys2Proof.core.run k s = .refused r → Sys2Proof.core.run k t = .refused r)

/-- Derived from R45, R34, R35, R191. Every step keeps the invariant: once INIT is 1, RQ holds at most
QCAP entries, in ascending key order, each with a value in its class's range and a well-formed
RawMessage. -/
def Obligations.StepKeepsTheQueueInvariant : Prop :=
  ∀ s t : State, Inv s → step s = .next t → Inv t

/-- Derived from R44, R300; the values of the seven items those rules leave unspecified are DESIGN
CHOICE (log entry 8), and the empty ports too (log entry 9). Power-on reset leaves INIT 0 and TXLOG empty,
and meets the invariants. -/
def Obligations.ResetMeetsTheInvariants : Prop :=
  State.reset.init = false ∧ State.reset.txLog = [] ∧ Inv State.reset ∧ txLogOk State.reset ∧
  ∀ r ∈ State.reset.resp, responseOk r = true

/-- Derived from R41, R83, R170, R270, R291. Every step keeps this: each frame in TXLOG has dlc 8 and an
identifier of one of the seven classes, and each response is a status byte of the table, alone unless it
is OK. -/
def Obligations.StepKeepsTheLogsWellShaped : Prop :=
  ∀ s t : State, (txLogOk s ∧ ∀ r ∈ s.resp, responseOk r = true) → step s = .next t →
    txLogOk t ∧ ∀ r ∈ t.resp, responseOk r = true

/-- Derived from R38, R70. TXLOG only grows at its end, by at most one frame a command, and only
NOTIFY_RX and SEND_MSG send. -/
def Obligations.AtMostOneFrameIsSentPerCommand : Prop :=
  ∀ (i : Instr) (s t : State), exec i s = .next t →
    t.txLog = s.txLog ∨
    ((∃ tx, t.txLog = s.txLog ++ [tx]) ∧ s.init = true ∧ (i = .notifyRx ∨ ∃ m, i = .sendMsg m))

/-- Derived from R40, R242, R275. NOTIFY_RX in state IDLE polls the driver exactly once, taking its next
answer; nothing else polls, not even NOTIFY_RX before NODE_INIT. The fields are the model's (log entry 4). -/
def Obligations.TheDriverIsPolledOncePerNotify : Prop :=
  ∀ (i : Instr) (s t : State), exec i s = .next t →
    if i = .notifyRx ∧ s.init = true then t.rxIn = s.rxIn.tail ∧ t.polls = s.polls + 1
    else t.rxIn = s.rxIn ∧ t.polls = s.polls

/-- Derived from the 'written by' column of R23. Each piece of state changes only by the commands that
column names, TXLOG by NOTIFY_RX and SEND_MSG, and the host's side of the command port by none. -/
def Obligations.EachRegisterHasItsWriters : Prop :=
  ∀ (i : Instr) (s t : State), exec i s = .next t →
    (t.cmdIn = s.cmdIn ∧ t.overlap = s.overlap) ∧
    (i ≠ .notifyRx → (∀ m, i ≠ .sendMsg m) → t.txLog = s.txLog) ∧
    ((∀ n, i ≠ .nodeInit n) →
      t.init = s.init ∧ t.nodeId = s.nodeId ∧
      ((∀ v, i ≠ .setHwRev v) → t.hwRev = s.hwRev) ∧
      ((∀ v, i ≠ .setSwRev v) → t.swRev = s.swRev) ∧
      ((∀ v, i ≠ .setConfig v) → t.config = s.config) ∧
      ((∀ v, i ≠ .setHdrConfig v) → t.hdrConfig = s.hdrConfig) ∧
      (i ≠ .notifyRx → t.qOvfCnt = s.qOvfCnt ∧ (i ≠ .readMsg → t.rq = s.rq)))

/-- R275. Before the first NODE_INIT every other node-engine command completes with NOT_INITIALIZED and
changes nothing: a NOTIFY_RX does not poll. -/
def Obligations.NodeCommandsFailBeforeNodeInit : Prop :=
  ∀ (i : Instr) (s : State), s.init = false → 0x02 ≤ (opcode i).toNat → (opcode i).toNat ≤ 0x09 →
    exec i s = .next { s with resp := s.resp ++ [[0x04#8]] }

/-! ## Node engine -/

/-- R221, R301. NODE_INIT, in either engine state: INIT 1, NODE_ID the operand, the identification
registers and Q_OVF_CNT 0, RQ empty; the driver is not polled and TXLOG does not change. -/
def Obligations.NodeInitBuildsTheNode : Prop :=
  ∀ (n : Byte) (s : State),
    exec (.nodeInit n) s = .next { s with
      init := true, nodeId := n, hwRev := 0x00#8, swRev := 0x00#8, config := 0x00#8, hdrConfig := 0x00#8
      qOvfCnt := 0#32, rq := [], resp := s.resp ++ [[0x00#8]] }

/-- R222, R223, R224, R225. Each identification setter writes its own register with its operand and
nothing else; in UNINIT it writes nothing and completes with NOT_INITIALIZED. -/
def Obligations.SettersWriteTheirRegister : Prop :=
  ∀ (v : Byte) (s : State),
    (s.init = true →
      exec (.setHwRev v) s = .next { s with hwRev := v, resp := s.resp ++ [[0x00#8]] } ∧
      exec (.setSwRev v) s = .next { s with swRev := v, resp := s.resp ++ [[0x00#8]] } ∧
      exec (.setConfig v) s = .next { s with config := v, resp := s.resp ++ [[0x00#8]] } ∧
      exec (.setHdrConfig v) s = .next { s with hdrConfig := v, resp := s.resp ++ [[0x00#8]] }) ∧
    (s.init = false →
      exec (.setHwRev v) s = .next { s with resp := s.resp ++ [[0x04#8]] } ∧
      exec (.setSwRev v) s = .next { s with resp := s.resp ++ [[0x04#8]] } ∧
      exec (.setConfig v) s = .next { s with resp := s.resp ++ [[0x04#8]] } ∧
      exec (.setHdrConfig v) s = .next { s with resp := s.resp ++ [[0x04#8]] })

/-- Derived from R226, R241, R242. A poll the driver answers with nothing: NO_FRAME, and nothing else
changes. -/
def Obligations.NotifyWithNoFrame : Prop :=
  ∀ s : State, s.init = true → pollAnswer s = none →
    exec .notifyRx s = .next { s with
      rxIn := s.rxIn.tail, polls := s.polls + 1, resp := s.resp ++ [[0x00#8, 0x00#8]] }

/-- Derived from R227, R40, R192. A received frame of fewer than four data bytes is discarded whatever its identifier: not
queued, not answered, no counter changed, disposition DISCARDED_MALFORMED. -/
def Obligations.NotifyDiscardsAShortFrame : Prop :=
  ∀ (s : State) (rx : RxFrame), s.init = true → pollAnswer s = some rx → rx.dlc.toNat < 4 →
    exec .notifyRx s = .next { s with
      rxIn := s.rxIn.tail, polls := s.polls + 1, resp := s.resp ++ [[0x00#8, 0x06#8]] }

/-- Derived from R228, R171. A received frame of at least four data bytes whose identifier is 2032 or
more is discarded with DISCARDED_INVALID_ID, and no state changes. -/
def Obligations.NotifyDiscardsAnInvalidIdentifier : Prop :=
  ∀ (s : State) (rx : RxFrame), s.init = true → pollAnswer s = some rx → 4 ≤ rx.dlc.toNat →
    2032 ≤ rx.id.toNat →
    exec .notifyRx s = .next { s with
      rxIn := s.rxIn.tail, polls := s.polls + 1, resp := s.resp ++ [[0x00#8, 0x04#8]] }

/-- R231, R232. An identification request (even identifier in NSH or NSL, service code 0) for this node
or for every node is answered on the next identifier, from this node, with the message code echoed and
the four identification registers; it is not queued, whatever RQ holds, and RQ and Q_OVF_CNT stay. The
reply's identifier is in the request's class. -/
def Obligations.NotifyAnswersAnIdentificationRequest : Prop :=
  ∀ (s : State) (rx : RxFrame), s.init = true → pollAnswer s = some rx → 4 ≤ rx.dlc.toNat →
    requestIdentifier rx.id.toNat → addressed s rx → rx.data.b2 = 0x00#8 →
    exec .notifyRx s = .next { s with
      rxIn := s.rxIn.tail, polls := s.polls + 1
      txLog := s.txLog ++ [⟨rx.id + 1#16, 8#4,
        ⟨s.nodeId, 0x10#8, 0x00#8, rx.data.b3, s.hwRev, s.swRev, s.config, s.hdrConfig⟩⟩]
      resp := s.resp ++ [[0x00#8, 0x01#8]] } ∧
    ∃ c : MsgClass, (c = .nsh ∨ c = .nsl) ∧ classify rx.id = .valued c rx.id ∧
      classify (rx.id + 1#16) = .valued c (rx.id + 1#16)

/-- Derived from R229, R230 under NONMATCH_REQ_POLICY = DISCARD_ALL_SERVICES, this hardware's value. A
service request for another node is discarded, whatever its service code. -/
def Obligations.NotifyDiscardsARequestForAnotherNode : Prop :=
  ∀ (s : State) (rx : RxFrame), s.init = true → pollAnswer s = some rx → 4 ≤ rx.dlc.toNat →
    requestIdentifier rx.id.toNat → ¬ addressed s rx →
    exec .notifyRx s = .next { s with
      rxIn := s.rxIn.tail, polls := s.polls + 1, resp := s.resp ++ [[0x00#8, 0x05#8]] }

/-- Derived from R233, R234, R235 under EQUAL_KEY_ORDER = FIFO, this hardware's value. A frame for RQ
that finds room is put behind every entry of a key at most its own and in front of every other; nothing
is sent. The hypothesis on the order is a clause of the invariant that StepKeepsTheQueueInvariant states. -/
def Obligations.NotifyQueuesAFrame : Prop :=
  ∀ (s : State) (rx : RxFrame), s.init = true → pollAnswer s = some rx → forQueue s rx →
    s.rq.length ≠ 10 → keysAscend s.rq →
    exec .notifyRx s = .next { s with
      rxIn := s.rxIn.tail, polls := s.polls + 1, rq := queueWith s.rq (receivedFrame rx)
      resp := s.resp ++ [[0x00#8, 0x02#8]] }

/-- R236. A frame for RQ that finds ten entries is dropped, whatever its key: RQ is unchanged and
Q_OVF_CNT goes up by one modulo 2^32. -/
def Obligations.NotifyDropsTheIncomingFrameWhenFull : Prop :=
  ∀ (s : State) (rx : RxFrame), s.init = true → pollAnswer s = some rx → forQueue s rx →
    s.rq.length = 10 →
    ∃ cnt : Word, cnt.toNat = (s.qOvfCnt.toNat + 1) % 2 ^ 32 ∧
      exec .notifyRx s = .next { s with
        rxIn := s.rxIn.tail, polls := s.polls + 1, qOvfCnt := cnt, resp := s.resp ++ [[0x00#8, 0x03#8]] }

/-- Derived from R237, R238, R41. SEND_MSG on an initialised node, with a value in its class's range,
transmits one frame of dlc 8: the value as identifier, the node id as given, the tag, service code and
message code, and the data with the bytes past the tag's width cleared. RQ is not touched. -/
def Obligations.SendMsgTransmitsTheMessage : Prop :=
  ∀ (m : MsgOperand) (s : State), s.init = true → classHolds m.mt.cls.toNat m.mt.value.toNat →
    let d := zeroFrom (tagWidth m.data.tag.toNat) m.data.d
    exec (.sendMsg m) s = .next { s with
      txLog := s.txLog ++ [⟨m.mt.value, 8#4,
        ⟨m.nodeId, m.data.tag, m.serviceCode, m.messageCode, d.b0, d.b1, d.b2, d.b3⟩⟩]
      resp := s.resp ++ [[0x00#8]] }

/-- Derived from R237, R274, D23. SEND_MSG with an INVALID class, or a value outside its class's range,
transmits nothing and completes with OUT_OF_RANGE. -/
def Obligations.SendMsgOutOfRangeTransmitsNothing : Prop :=
  ∀ (m : MsgOperand) (s : State), s.init = true → ¬ classHolds m.mt.cls.toNat m.mt.value.toNat →
    exec (.sendMsg m) s = .next { s with resp := s.resp ++ [[0x03#8]] }

/-- Derived from R239, R199, R83, R89. READ_MSG removes the head of RQ and returns it decoded: the class
and value (INVALID as 07 00 00), node id, service code, message code, tag, and the data with the bytes
past the tag's width cleared. Where RQ is empty the status is NONE and nothing changes. -/
def Obligations.ReadMsgPopsTheHead : Prop :=
  ∀ s : State, s.init = true →
    (s.rq = [] → exec .readMsg s = .next { s with resp := s.resp ++ [[0x01#8]] }) ∧
    ∀ (f : Frame) (rest : List Frame), s.rq = f :: rest →
      exec .readMsg s = .next { s with
        rq := rest
        resp := s.resp ++ [[0x00#8] ++
          (match f.mt with
            | .valued c v => [c.code, hi8 v, lo8 v]
            | .invalid => [0x07#8, 0x00#8, 0x00#8]) ++
          [f.raw.nodeId, f.raw.serviceCode, f.raw.messageCode, f.raw.typeTag] ++
          (zeroFrom (tagWidth f.raw.typeTag.toNat) f.raw.payload).toList] }

/-- Derived from R240, R98. READ_STATUS returns the number of queue entries in one byte and Q_OVF_CNT in
four, most significant first, and changes nothing. -/
def Obligations.ReadStatusReportsCountAndOverflow : Prop :=
  ∀ s : State, s.init = true →
    ∃ k b0 b1 b2 b3 : Byte,
      exec .readStatus s = .next { s with resp := s.resp ++ [[0x00#8, k, b0, b1, b2, b3]] } ∧
      (s.rq.length ≤ 10 → k.toNat = s.rq.length) ∧
      s.qOvfCnt.toNat = ((b0.toNat * 256 + b1.toNat) * 256 + b2.toNat) * 256 + b3.toNat

/-- Derived from R34, R71, R235. Frames that arrive one by one and are all queued stand in RQ as the same
frames, in ascending key order, those of one key in arrival order. -/
def Obligations.EqualKeysStandInArrivalOrder : Prop :=
  ∀ arrivals : List Frame,
    keysAscend (queueAfter arrivals) ∧ (queueAfter arrivals).Perm arrivals ∧
    ∀ k : Half, (queueAfter arrivals).filter (fun e => decide (keyOf e = k)) =
      arrivals.filter (fun e => decide (keyOf e = k))

/-- Derived from R235's rule for EQUAL_KEY_ORDER = ANY, the alternative this hardware does not take. The
places the free choice can give are exactly those between the entries of smaller and of greater key, and
each keeps the queue in key order. -/
def Obligations.AnyOrderAdmitsExactlyThePlacesOfTheKey : Prop :=
  ∀ (q : List Frame) (f : Frame) (j : Nat), keysAscend q →
    ((∃ choice, insertIndex .any choice q (keyOf f) = j) ↔
      ((q.filter (fun e => decide (keyOf e < keyOf f))).length ≤ j ∧
        j ≤ (q.filter (fun e => decide (keyOf e ≤ keyOf f))).length)) ∧
    ∀ choice, keysAscend (insertFrame q f (insertIndex .any choice q (keyOf f)))

/-- Derived from R230's rule for the alternative NONMATCH_REQ_POLICY = QUEUE_NON_IDS, which this hardware
does not take. A request for another node is pushed when it is not IDS, and discarded when it is. -/
def Obligations.QueueNonIdsPolicyPushesOtherServices : Prop :=
  ∀ (s : State) (f : Frame),
    (f.raw.serviceCode ≠ 0x00#8 → otherNodeRequest .queueNonIds s f = push s f) ∧
    (f.raw.serviceCode = 0x00#8 → otherNodeRequest .queueNonIds s f = (s, .discardedOtherNode))

/-- R179. The reply to a request identifier of a service class is one above it, without wrapping, and is
in the same class. -/
def Obligations.ReplyIdentifierStaysInTheClass : Prop :=
  ∀ (c : MsgClass) (r : Half), (c = .nsh ∨ c = .nsl) → classify r = .valued c r → r.toNat % 2 = 0 →
    (replyId r).toNat = r.toNat + 1 ∧ classify (replyId r) = .valued c (replyId r) ∧
    replyId r = requestId c (channelOf c r) + 1#16

/-! ## DataType codec -/

/-- R116. Decoding a value's type id and bytes gives the value back, for every DataType; the other
direction holds exactly where the bytes are zero past the tag's width; an undefined tag's value is the
big-endian reading of the four bytes. -/
def Obligations.CodecRoundTrip : Prop :=
  (∀ v : DataType, DataType.decode v.typeId v.encode = v) ∧
  (∀ (t : Byte) (d : Quad), (DataType.decode t d).encode = d ↔ zeroFrom (tagWidth t.toNat) d = d) ∧
  ∀ (t : Byte) (h : 0x21#8 ≤ t) (d : Quad), ∃ x : Word, DataType.decode t d = .udef t h x ∧
    x.toNat = ((d.b0.toNat * 256 + d.b1.toNat) * 256 + d.b2.toNat) * 256 + d.b3.toNat

/-- R113, R114. Decoding keeps the tag and clears the bytes past the tag's width; the canonical form of
a value fixes the value, and is any tag with bytes zero past its width. -/
def Obligations.CanonicalFormsOfDataTypes : Prop :=
  (∀ (t : Byte) (d : Quad), (DataType.decode t d).typeId = t ∧
    (DataType.decode t d).canon = ⟨t, zeroFrom (tagWidth t.toNat) d⟩) ∧
  (∀ v w : DataType, v.canon = w.canon → v = w) ∧
  (∀ (t : Byte) (c : Quad), (∃ v : DataType, v.canon = ⟨t, c⟩) ↔ zeroFrom (tagWidth t.toNat) c = c)

/-- R120, R121, R122, R123, R124, R140, R141, R149, R150, R152. The variants of one 32-bit field: read
and written as the big-endian number of the four bytes, for LONG as the two's-complement one, length 4;
the escape keeps any tag from 0x21. -/
def Obligations.WordVariants : Prop :=
  ∀ d : Quad, ∃ x : Word,
    let n := ((d.b0.toNat * 256 + d.b1.toNat) * 256 + d.b2.toNat) * 256 + d.b3.toNat
    x.toNat = n ∧ x.toInt = (if n < 2 ^ 31 then (n : Int) else (n : Int) - 2 ^ 32) ∧
    variantRow 0x01#8 4 d d (.error x) ∧ variantRow 0x02#8 4 d d (.float x) ∧
    variantRow 0x03#8 4 d d (.long x) ∧ variantRow 0x04#8 4 d d (.ulong x) ∧
    variantRow 0x05#8 4 d d (.blong x) ∧ variantRow 0x15#8 4 d d (.memid x) ∧
    variantRow 0x16#8 4 d d (.chksum x) ∧ variantRow 0x1E#8 4 d d (.doubleh x) ∧
    variantRow 0x1F#8 4 d d (.doublel x) ∧
    ∀ (t : Byte) (h : 0x21#8 ≤ t), variantRow t 4 d d (.udef t h x)

/-- R125, R126, R127, R131, R132, R133. The variants of 16-bit fields: the first from bytes 0 and 1, the
second from bytes 2 and 3, big-endian, the signed ones in two's complement; a single field leaves bytes 2
and 3 zero. -/
def Obligations.HalfVariants : Prop :=
  ∀ d : Quad, ∃ a b : Half,
    let m := d.b0.toNat * 256 + d.b1.toNat
    let n := d.b2.toNat * 256 + d.b3.toNat
    let front : Quad := ⟨d.b0, d.b1, 0x00#8, 0x00#8⟩
    a.toNat = m ∧ a.toInt = (if m < 2 ^ 15 then (m : Int) else (m : Int) - 2 ^ 16) ∧
    b.toNat = n ∧ b.toInt = (if n < 2 ^ 15 then (n : Int) else (n : Int) - 2 ^ 16) ∧
    variantRow 0x06#8 2 d front (.short a) ∧ variantRow 0x07#8 2 d front (.ushort a) ∧
    variantRow 0x08#8 2 d front (.bshort a) ∧ variantRow 0x0C#8 4 d d (.short2 a b) ∧
    variantRow 0x0D#8 4 d d (.ushort2 a b) ∧ variantRow 0x0E#8 4 d d (.bshort2 a b)

/-- R128, R129, R130, R137, R138, R139, R142, R143. The variants of one or two bytes, packed byte for
byte from byte 0, zero behind; the integer of a signed byte is its two's-complement reading. -/
def Obligations.OneAndTwoByteVariants : Prop :=
  ∀ d : Quad,
    let one : Quad := ⟨d.b0, 0x00#8, 0x00#8, 0x00#8⟩
    let two : Quad := ⟨d.b0, d.b1, 0x00#8, 0x00#8⟩
    (∀ x : Byte, x.toInt = if x.toNat < 2 ^ 7 then (x.toNat : Int) else (x.toNat : Int) - 2 ^ 8) ∧
    variantRow 0x09#8 1 d one (.char d.b0) ∧ variantRow 0x0A#8 1 d one (.uchar d.b0) ∧
    variantRow 0x0B#8 1 d one (.bchar d.b0) ∧ variantRow 0x17#8 1 d one (.achar d.b0) ∧
    variantRow 0x12#8 2 d two (.char2 d.b0 d.b1) ∧ variantRow 0x13#8 2 d two (.uchar2 d.b0 d.b1) ∧
    variantRow 0x14#8 2 d two (.bchar2 d.b0 d.b1) ∧ variantRow 0x18#8 2 d two (.achar2 d.b0 d.b1)

/-- R134, R135, R136, R144, R145, R146, R147, R148. The variants of three or four bytes, packed byte for
byte; three-byte ones leave byte 3 zero; the integer of a signed byte is its two's-complement reading. -/
def Obligations.ThreeAndFourByteVariants : Prop :=
  ∀ d : Quad,
    let three : Quad := ⟨d.b0, d.b1, d.b2, 0x00#8⟩
    (∀ x : Byte, x.toInt = if x.toNat < 2 ^ 7 then (x.toNat : Int) else (x.toNat : Int) - 2 ^ 8) ∧
    variantRow 0x0F#8 4 d d (.char4 d.b0 d.b1 d.b2 d.b3) ∧ variantRow 0x10#8 4 d d (.uchar4 d.b0 d.b1 d.b2 d.b3) ∧
    variantRow 0x11#8 4 d d (.bchar4 d.b0 d.b1 d.b2 d.b3) ∧ variantRow 0x19#8 4 d d (.achar4 d.b0 d.b1 d.b2 d.b3) ∧
    variantRow 0x1A#8 3 d three (.char3 d.b0 d.b1 d.b2) ∧ variantRow 0x1B#8 3 d three (.uchar3 d.b0 d.b1 d.b2) ∧
    variantRow 0x1C#8 3 d three (.bchar3 d.b0 d.b1 d.b2) ∧ variantRow 0x1D#8 3 d three (.achar3 d.b0 d.b1 d.b2)

/-- R119, R151. NODATA and RESVD: every slot reads as the variant, which writes zeros and has length 0. -/
def Obligations.VariantsWithoutData : Prop :=
  ∀ d : Quad,
    variantRow 0x00#8 0 d ⟨0x00#8, 0x00#8, 0x00#8, 0x00#8⟩ .nodata ∧
    variantRow 0x20#8 0 d ⟨0x00#8, 0x00#8, 0x00#8, 0x00#8⟩ .resvd

/-- R154, R155. DT_ENCODE and DT_DECODE complete with OK, the operand's tag, and its bytes with those
past the tag's width cleared, in every state, and change nothing. -/
def Obligations.DtEncodeAndDtDecodeReturnTheCanonicalForm : Prop :=
  ∀ (x : DtOperand) (s : State),
    let answer := [0x00#8, x.tag] ++ (zeroFrom (tagWidth x.tag.toNat) x.d).toList
    exec (.dtEncode x) s = .next { s with resp := s.resp ++ [answer] } ∧
    exec (.dtDecode x) s = .next { s with resp := s.resp ++ [answer] }

/-- R156, R157. DT_TYPE_ID returns the operand's tag and DT_LEN the width of that tag, in every state,
and change nothing. -/
def Obligations.DtTypeIdAndDtLenAreProjections : Prop :=
  ∀ (x : DtOperand) (s : State),
    exec (.dtTypeId x) s = .next { s with resp := s.resp ++ [[0x00#8, x.tag]] } ∧
    exec (.dtLen x) s = .next { s with resp := s.resp ++ [[0x00#8, BitVec.ofNat 8 (tagWidth x.tag.toNat)]] }

/-! ## MessageType classifier -/

/-- R176. MT_CLASSIFY returns the class whose range contains the identifier, with the identifier, and
07 00 00 from 2032 on, in every state, and changes nothing. -/
def Obligations.MtClassifyReturnsTheClassOfTheRange : Prop :=
  ∀ (id : Half) (s : State),
    (∀ cls : Byte, classHolds cls.toNat id.toNat →
      exec (.mtClassify id) s = .next { s with resp := s.resp ++ [[0x00#8, cls, hi8 id, lo8 id]] }) ∧
    (2032 ≤ id.toNat →
      exec (.mtClassify id) s = .next { s with resp := s.resp ++ [[0x00#8, 0x07#8, 0x00#8, 0x00#8]] })

/-- R177. MT_ID returns the value where it is in its class's range, and completes with OUT_OF_RANGE where
it is not or the class byte is 7 or more, in every state, and changes nothing. -/
def Obligations.MtIdValidatesTheValue : Prop :=
  ∀ (m : MtOperand) (s : State),
    (classHolds m.cls.toNat m.value.toNat →
      exec (.mtId m) s = .next { s with resp := s.resp ++ [[0x00#8, hi8 m.value, lo8 m.value]] }) ∧
    (¬ classHolds m.cls.toNat m.value.toNat →
      exec (.mtId m) s = .next { s with resp := s.resp ++ [[0x03#8]] })

/-- R175. Classifying an identifier up to 2031 and reading it back gives it; every other identifier is
INVALID; and a MessageType whose identifier is read is the one that identifier classifies as. -/
def Obligations.ClassificationRoundTrip : Prop :=
  (∀ id : Half, id.toNat ≤ 2031 → idOf (classify id) = some id) ∧
  (∀ id : Half, 2032 ≤ id.toNat → classify id = .invalid) ∧
  (∀ (mt : MessageType) (v : Half), idOf mt = some v → classify v = mt)

/-! ## Framing and conversions -/

/-- R205. RAW_FROM_BYTES, in every state: fewer than four bytes complete with MALFORMED_FRAME; else the
header, the payload length, and the payload padded with zeros to four bytes, bytes from the ninth on
ignored. Nothing else changes. -/
def Obligations.RawFromBytesParsesTheFrame : Prop :=
  ∀ s : State,
    (∀ b : List Byte, b.length < 4 → exec (.rawFromBytes b) s = .next { s with resp := s.resp ++ [[0x02#8]] }) ∧
    ∀ (n t v c : Byte) (p : List Byte),
      exec (.rawFromBytes (n :: t :: v :: c :: p)) s = .next { s with
        resp := s.resp ++ [[0x00#8, n, t, v, c, BitVec.ofNat 8 (min p.length 4)] ++
          (p ++ [0x00#8, 0x00#8, 0x00#8, 0x00#8]).take 4] }

/-- R206, R207. RAW_TO_BYTES of a well-formed operand returns the eight wire bytes, without plen, and of
an ill-formed one MALFORMED_FRAME; RAW_EMPTY returns the all-zero RawMessage. In every state, changing
nothing. -/
def Obligations.RawToBytesAndRawEmpty : Prop :=
  ∀ (r : RawMessage) (s : State),
    (rawOk r → exec (.rawToBytes r) s = .next { s with
      resp := s.resp ++ [[0x00#8, r.nodeId, r.typeTag, r.serviceCode, r.messageCode] ++ r.payload.toList] }) ∧
    (¬ rawOk r → exec (.rawToBytes r) s = .next { s with resp := s.resp ++ [[0x02#8]] }) ∧
    exec .rawEmpty s = .next { s with resp := s.resp ++
      [[0x00#8, 0x00#8, 0x00#8, 0x00#8, 0x00#8, 0x00#8, 0x00#8, 0x00#8, 0x00#8, 0x00#8]] }

/-- R208. MSG_FROM_FRAME of a well-formed RAW operand returns the MessageType as given (INVALID as 07 00
00), node id, service code, message code, tag, and the payload with the bytes past the tag's width
cleared, whatever plen; of an ill-formed one MALFORMED_FRAME. In every state, changing nothing. -/
def Obligations.MsgFromFrameDecodesTheFrame : Prop :=
  ∀ (f : FrameOperand) (s : State),
    (rawOk f.raw → exec (.msgFromFrame f) s = .next { s with
      resp := s.resp ++ [[0x00#8] ++ mtEcho f.mt ++
        [f.raw.nodeId, f.raw.serviceCode, f.raw.messageCode, f.raw.typeTag] ++
        (zeroFrom (tagWidth f.raw.typeTag.toNat) f.raw.payload).toList] }) ∧
    (¬ rawOk f.raw → exec (.msgFromFrame f) s = .next { s with resp := s.resp ++ [[0x02#8]] })

/-- R209. MSG_TO_FRAME returns the MessageType as given (INVALID as 07 00 00), node id, tag, service code,
message code, the tag's width as plen, and the data with the bytes past it cleared. In every state,
changing nothing. -/
def Obligations.MsgToFrameEncodesTheMessage : Prop :=
  ∀ (m : MsgOperand) (s : State),
    exec (.msgToFrame m) s = .next { s with
      resp := s.resp ++ [[0x00#8] ++ mtEcho m.mt ++
        [m.nodeId, m.data.tag, m.serviceCode, m.messageCode, BitVec.ofNat 8 (tagWidth m.data.tag.toNat)] ++
        (zeroFrom (tagWidth m.data.tag.toNat) m.data.d).toList] }

/-- R210. FRAME_CMP: MALFORMED_FRAME where either RAW operand is ill formed; else OUT_OF_RANGE where
either value is outside its class's range; else less, equal or greater by the values alone. In every
state, changing nothing. -/
def Obligations.FrameCmpOrdersByIdentifier : Prop :=
  ∀ (f g : FrameOperand) (s : State),
    exec (.frameCmp f g) s = .next { s with resp := s.resp ++ [
      if ¬ (rawOk f.raw ∧ rawOk g.raw) then [0x02#8]
      else if ¬ (classHolds f.mt.cls.toNat f.mt.value.toNat ∧ classHolds g.mt.cls.toNat g.mt.value.toNat) then [0x03#8]
      else if f.mt.value.toNat < g.mt.value.toNat then [0x00#8, 0x00#8]
      else if f.mt.value.toNat = g.mt.value.toNat then [0x00#8, 0x01#8]
      else [0x00#8, 0x02#8]] }

/-- R195. Re-encoding a parsed byte sequence gives its first eight bytes, padded with zeros to eight; and
parsing a RawMessage's eight bytes gives it back with plen 4, since plen is not among them. -/
def Obligations.FramingLaws : Prop :=
  (∀ b : List Byte, 4 ≤ b.length → ∃ r : RawMessage, RawMessage.fromBytes b = some r ∧
    r.toBytes.toList = b.take 8 ++ List.replicate (8 - b.length) 0x00#8) ∧
  (∀ r : RawMessage, RawMessage.fromBytes r.toBytes.toList = some { r with plen := 4#8 }) ∧
  ∀ (r : RawMessage) (l : Byte), { r with plen := l }.toBytes = r.toBytes

/-- Derived from R191, R192, R194, R201, R232. Every RawMessage the block builds is well formed: a parsed
one, the empty one, that of a converted message, and that of an identification reply. -/
def Obligations.BuiltRawMessagesAreWellFormed : Prop :=
  (∀ (b : List Byte) (r : RawMessage), RawMessage.fromBytes b = some r → rawOk r) ∧ rawOk RawMessage.empty ∧
  (∀ m : Message, rawOk (frameOf m).raw) ∧ ∀ (s : State) (f : Frame), rawOk (idsReplyRaw s f)

/-- R203. A message converted to a frame and back is itself. A frame converted to a message and back has
the payload past the tag's width cleared and plen set to that width; so a well-formed frame comes back
itself exactly where it already was so. -/
def Obligations.ConversionLaws : Prop :=
  (∀ m : Message, messageOf (frameOf m) = m) ∧
  ∀ f : Frame, rawOk f.raw →
    frameOf (messageOf f) = { f with raw := { f.raw with
      plen := BitVec.ofNat 8 (tagWidth f.raw.typeTag.toNat)
      payload := zeroFrom (tagWidth f.raw.typeTag.toNat) f.raw.payload } } ∧
    (frameOf (messageOf f) = f ↔
      zeroFrom (tagWidth f.raw.typeTag.toNat) f.raw.payload = f.raw.payload ∧
      f.raw.plen.toNat = (DataType.decode f.raw.typeTag f.raw.payload).len)

/-- Derived from R88, R198. The view of a service byte is an enumerated code for 0x00..0x0F and else a
custom code carrying the byte, and its numeric value is the byte. -/
def Obligations.ServiceViewKeepsTheByte : Prop :=
  ∀ b : Byte, svcByte (svcView b) = b ∧ (b.toNat ≤ 0x0F ↔ ∃ n, svcView b = .known n) ∧
    (0x10 ≤ b.toNat → svcView b = .custom b)
end

