-- ==== Sys2Proof/Laws/Classifier.lean ====
section
/-! SUPPORT. The classifier in numbers: which class an identifier has (R170), when a MessageType has an
identifier (R173), and what an MT operand denotes (R89). -/

namespace Sys2Proof

open Sys2Proof.Machine

/-- Everything `classify` can give, by the range of the identifier (R170, R171). -/
theorem classify_cases (id : Half) :
    (id.toNat ≤ 127 ∧ classify id = .valued .eed id) ∨
    (128 ≤ id.toNat ∧ id.toNat ≤ 199 ∧ classify id = .valued .nsh id) ∨
    (200 ≤ id.toNat ∧ id.toNat ≤ 299 ∧ classify id = .valued .udh id) ∨
    (300 ≤ id.toNat ∧ id.toNat ≤ 1799 ∧ classify id = .valued .nod id) ∨
    (1800 ≤ id.toNat ∧ id.toNat ≤ 1899 ∧ classify id = .valued .udl id) ∨
    (1900 ≤ id.toNat ∧ id.toNat ≤ 1999 ∧ classify id = .valued .dsd id) ∨
    (2000 ≤ id.toNat ∧ id.toNat ≤ 2031 ∧ classify id = .valued .nsl id) ∨
    (2032 ≤ id.toNat ∧ classify id = .invalid) := by
  unfold classify
  simp only [BitVec.le_def, BitVec.toNat_ofNat, Nat.reducePow, Nat.reduceMod]
  repeat' split
  all_goals simp; omega

/-- A class's range in numbers (R170). -/
theorem inRange_iff (c : MsgClass) (v : Half) :
    (c.lo ≤ v ∧ v ≤ c.hi) ↔ classHolds c.code.toNat v.toNat := by
  cases c <;> simp [MsgClass.lo, MsgClass.hi, MsgClass.code, BitVec.le_def, classHolds]

/-- `idOf` in numbers (R173). -/
theorem idOf_valued (c : MsgClass) (v : Half) :
    idOf (.valued c v) = if classHolds c.code.toNat v.toNat then some v else none := by
  simp only [idOf, inRange_iff]

@[simp] theorem idOf_invalid : idOf .invalid = none := rfl

theorem idOf_of_holds {c : MsgClass} {v : Half} (h : classHolds c.code.toNat v.toNat) :
    idOf (.valued c v) = some v := by
  rw [idOf_valued, if_pos h]

/-- A classified identifier is the identifier of its MessageType (R175). -/
theorem idOf_classify {id : Half} (h : classify id ≠ .invalid) : idOf (classify id) = some id := by
  obtain ⟨_, h'⟩ | ⟨_, _, h'⟩ | ⟨_, _, h'⟩ | ⟨_, _, h'⟩ | ⟨_, _, h'⟩ | ⟨_, _, h'⟩ | ⟨_, _, h'⟩ | ⟨_, h'⟩ :=
    classify_cases id
  case inr.inr.inr.inr.inr.inr.inr => exact absurd h' h
  all_goals
    rw [h', idOf_of_holds]
    simp [MsgClass.code, classHolds]
    omega

theorem classify_invalid_iff (id : Half) : classify id = .invalid ↔ 2032 ≤ id.toNat := by
  obtain ⟨_, h⟩ | ⟨_, _, h⟩ | ⟨_, _, h⟩ | ⟨_, _, h⟩ | ⟨_, _, h⟩ | ⟨_, _, h⟩ | ⟨_, _, h⟩ | ⟨_, h⟩ :=
    classify_cases id <;> simp [h] <;> omega

/-- The request test on a classified identifier is the numeric one (R178, R229). -/
theorem isRequest_classify (id : Half) : (classify id).isRequest = true ↔ requestIdentifier id.toNat := by
  obtain ⟨_, h⟩ | ⟨_, _, h⟩ | ⟨_, _, h⟩ | ⟨_, _, h⟩ | ⟨_, _, h⟩ | ⟨_, _, h⟩ | ⟨_, _, h⟩ | ⟨_, h⟩ :=
    classify_cases id <;> simp [h, MessageType.isRequest, MsgClass.isService, requestIdentifier] <;> omega

/-- What an MT operand denotes (R89): the class of its code, or INVALID from 0x07 on. -/
theorem mtType_cases (m : MtOperand) :
    (∃ c : MsgClass, m.cls = c.code ∧ m.type = .valued c m.value) ∨ (7 ≤ m.cls.toNat ∧ m.type = .invalid) := by
  unfold MtOperand.type
  split
  case h_8 =>
    refine .inr ⟨?_, rfl⟩
    simp only [BitVec.toNat_eq, imp_false, BitVec.toNat_ofNat, Nat.reducePow, Nat.reduceMod] at *
    omega
  all_goals
    next h =>
      first
      | exact .inl ⟨.eed, h, rfl⟩
      | exact .inl ⟨.nsh, h, rfl⟩
      | exact .inl ⟨.udh, h, rfl⟩
      | exact .inl ⟨.nod, h, rfl⟩
      | exact .inl ⟨.udl, h, rfl⟩
      | exact .inl ⟨.dsd, h, rfl⟩
      | exact .inl ⟨.nsl, h, rfl⟩

/-- The identifier of an MT operand (R89, R173, R174). -/
theorem idOf_type (m : MtOperand) :
    idOf m.type = if classHolds m.cls.toNat m.value.toNat then some m.value else none := by
  obtain ⟨c, hc, ht⟩ | ⟨hc, ht⟩ := mtType_cases m
  · rw [ht, idOf_valued, hc]
  · rw [ht, idOf_invalid, if_neg]
    simp only [classHolds]
    omega

theorem code_le (c : MsgClass) : c.code.toNat ≤ 6 := by cases c <;> simp [MsgClass.code]

/-- An MT operand comes back on the port as R89 says. -/
theorem echo_type (m : MtOperand) : m.type.operand.bytes = mtEcho m := by
  obtain ⟨c, hc, ht⟩ | ⟨hc, ht⟩ := mtType_cases m
  · rw [ht]
    simp [MessageType.operand, MtOperand.bytes, mtEcho, be16, hc, code_le c]
  · rw [ht, mtEcho, if_neg (by omega)]
    rfl

end Sys2Proof
end

