-- ==== Sys2Proof/Laws/Word.lean ====
section
/-! SUPPORT. Bytes and words: the big-endian readings and writings of R13 as numbers, and that they
undo each other. -/

namespace Sys2Proof

theorem append_byte_toNat {w : Nat} (x : BitVec w) (b : Byte) : (x ++ b).toNat = x.toNat * 256 + b.toNat := by
  rw [BitVec.toNat_append, ← Nat.shiftLeft_add_eq_or_of_lt b.isLt, Nat.shiftLeft_eq]

theorem u16_toNat (h l : Byte) : (u16 h l).toNat = h.toNat * 256 + l.toNat :=
  append_byte_toNat h l

theorem u32_toNat (b0 b1 b2 b3 : Byte) :
    (u32 b0 b1 b2 b3).toNat = ((b0.toNat * 256 + b1.toNat) * 256 + b2.toNat) * 256 + b3.toNat := by
  simp only [u32, append_byte_toNat]

theorem hi8_toNat (x : Half) : (hi8 x).toNat = x.toNat / 256 := by
  have := x.isLt
  simp only [hi8, BitVec.extractLsb'_toNat, Nat.shiftRight_eq_div_pow]
  omega

theorem lo8_toNat (x : Half) : (lo8 x).toNat = x.toNat % 256 := by
  simp only [lo8, BitVec.extractLsb'_toNat, Nat.shiftRight_zero]

@[simp] theorem u16_hi8_lo8 (x : Half) : u16 (hi8 x) (lo8 x) = x := by
  apply BitVec.eq_of_toNat_eq
  rw [u16_toNat, hi8_toNat, lo8_toNat]
  omega

@[simp] theorem hi8_u16 (h l : Byte) : hi8 (u16 h l) = h := by
  apply BitVec.eq_of_toNat_eq
  have := l.isLt
  rw [hi8_toNat, u16_toNat]
  omega

@[simp] theorem lo8_u16 (h l : Byte) : lo8 (u16 h l) = l := by
  apply BitVec.eq_of_toNat_eq
  have := l.isLt
  rw [lo8_toNat, u16_toNat]
  omega

/-- The value of `be32 x`, byte by byte. -/
theorem be32_toNat (x : Word) :
    (be32 x).b0.toNat = x.toNat / 16777216 ∧ (be32 x).b1.toNat = x.toNat / 65536 % 256 ∧
      (be32 x).b2.toNat = x.toNat / 256 % 256 ∧ (be32 x).b3.toNat = x.toNat % 256 := by
  have := x.isLt
  simp only [be32, BitVec.extractLsb'_toNat, Nat.shiftRight_eq_div_pow, Nat.reducePow, Nat.div_one]
  simp only [and_true]
  omega

/-- A number below 2^32 is the big-endian reading of its four bytes. -/
theorem four_bytes (n : Nat) :
    ((n / 16777216 * 256 + n / 65536 % 256) * 256 + n / 256 % 256) * 256 + n % 256 = n := by
  have h3 : n / 16777216 = n / 65536 / 256 := by rw [Nat.div_div_eq_div_mul]
  have h2 : n / 65536 = n / 256 / 256 := by rw [Nat.div_div_eq_div_mul]
  rw [h3, h2, Nat.div_add_mod', Nat.div_add_mod', Nat.div_add_mod']

theorem u32_be32 (x : Word) : u32 (be32 x).b0 (be32 x).b1 (be32 x).b2 (be32 x).b3 = x := by
  apply BitVec.eq_of_toNat_eq
  obtain ⟨h0, h1, h2, h3⟩ := be32_toNat x
  rw [u32_toNat, h0, h1, h2, h3, four_bytes]

@[simp] theorem be32_u32 (b0 b1 b2 b3 : Byte) : be32 (u32 b0 b1 b2 b3) = ⟨b0, b1, b2, b3⟩ := by
  obtain ⟨h0, h1, h2, h3⟩ := be32_toNat (u32 b0 b1 b2 b3)
  rw [u32_toNat] at h0 h1 h2 h3
  have := b0.isLt; have := b1.isLt; have := b2.isLt; have := b3.isLt
  rw [Quad.mk.injEq]
  refine ⟨BitVec.eq_of_toNat_eq ?_, BitVec.eq_of_toNat_eq ?_, BitVec.eq_of_toNat_eq ?_, BitVec.eq_of_toNat_eq ?_⟩ <;>
    omega

/-- Two's complement of a byte, as S8 of R13 reads it. -/
theorem byte_toInt (x : Byte) :
    x.toInt = if x.toNat < 2 ^ 7 then (x.toNat : Int) else (x.toNat : Int) - 2 ^ 8 := by
  rw [BitVec.toInt_eq_toNat_cond]
  split <;> split <;> omega

/-- Two's complement of a 16-bit word, as S16 of R13 reads it. -/
theorem half_toInt (x : Half) :
    x.toInt = if x.toNat < 2 ^ 15 then (x.toNat : Int) else (x.toNat : Int) - 2 ^ 16 := by
  rw [BitVec.toInt_eq_toNat_cond]
  split <;> split <;> omega

/-- Two's complement of a 32-bit word, as S32 of R13 reads it. -/
theorem word_toInt (x : Word) :
    x.toInt = if x.toNat < 2 ^ 31 then (x.toNat : Int) else (x.toNat : Int) - 2 ^ 32 := by
  rw [BitVec.toInt_eq_toNat_cond]
  split <;> split <;> omega

end Sys2Proof
end

