-- ==== Sys2Proof/Laws/Codec.lean ====
section
/-! SUPPORT. What decoding a tag and a slot gives, said once: the tag is kept (R114), the bytes written
back are the slot's with those past the width of R86 cleared (R113), and the length is that width. -/

namespace Sys2Proof

open Sys2Proof.Machine

/-- The codec rows of the defined tags: R119 to R151. -/
theorem read_row {t : Byte} (h : t.toNat ≤ 0x20) (d : Quad) :
    (DataType.read t d).typeId = t ∧ (DataType.read t d).encode = zeroFrom (tagWidth t.toNat) d ∧
      (DataType.read t d).len = tagWidth t.toNat := by
  unfold DataType.read
  split
  case h_33 =>
    obtain rfl : t = 0x20#8 := by
      simp only [BitVec.toNat_eq, imp_false, BitVec.toNat_ofNat, Nat.reducePow, Nat.reduceMod] at *
      omega
    simp [DataType.typeId, DataType.encode, DataType.len, tagWidth, zeroFrom, Quad.zero]
  all_goals simp [DataType.typeId, DataType.encode, DataType.len, tagWidth, zeroFrom, Quad.zero]

theorem tagWidth_of_undefined {t : Nat} (h : 0x21 ≤ t) : tagWidth t = 4 := by
  unfold tagWidth
  simp only [List.mem_cons, List.not_mem_nil, or_false]
  repeat rw [if_neg (by omega)]

/-- The codec row of every tag: R119 to R152. -/
theorem decode_row (t : Byte) (d : Quad) :
    (DataType.decode t d).typeId = t ∧ (DataType.decode t d).encode = zeroFrom (tagWidth t.toNat) d ∧
      (DataType.decode t d).len = tagWidth t.toNat := by
  unfold DataType.decode
  split
  · next h =>
    rw [tagWidth_of_undefined (by simpa [BitVec.le_def] using h)]
    simp [DataType.typeId, DataType.encode, DataType.len, zeroFrom]
  · next h => exact read_row (by simp [BitVec.le_def] at h; omega) d

@[simp] theorem typeId_decode (t : Byte) (d : Quad) : (DataType.decode t d).typeId = t := (decode_row t d).1

@[simp] theorem encode_decode (t : Byte) (d : Quad) :
    (DataType.decode t d).encode = zeroFrom (tagWidth t.toNat) d := (decode_row t d).2.1

@[simp] theorem len_decode (t : Byte) (d : Quad) : (DataType.decode t d).len = tagWidth t.toNat :=
  (decode_row t d).2.2

theorem tagWidth_le (t : Nat) : tagWidth t ≤ 4 := by
  unfold tagWidth
  repeat' split
  all_goals omega

end Sys2Proof
end

