-- ==== Sys2Proof/Laws/Decode.lean ====
section
/-! SUPPORT. Each operand reader undoes the operand's bytes, and reads nothing else. -/

namespace Sys2Proof

@[simp] theorem takeImm8_cons (v : Byte) (rest : List Byte) : takeImm8 (v :: rest) = some (v, rest) := rfl

@[simp] theorem takeId_bytes (x : Half) (rest : List Byte) : takeId (be16 x ++ rest) = some (x, rest) := by
  simp [takeId, be16]

@[simp] theorem takeMt_bytes (m : MtOperand) (rest : List Byte) : takeMt (m.bytes ++ rest) = some (m, rest) := by
  simp [takeMt, MtOperand.bytes, be16]

@[simp] theorem takeDt_bytes (x : DtOperand) (rest : List Byte) : takeDt (x.bytes ++ rest) = some (x, rest) := rfl

@[simp] theorem takeRaw_bytes (r : RawMessage) (rest : List Byte) : takeRaw (r.bytes ++ rest) = some (r, rest) := rfl

@[simp] theorem takeFrame_bytes (f : FrameOperand) (rest : List Byte) :
    takeFrame (f.bytes ++ rest) = some (f, rest) := by
  simp [takeFrame, FrameOperand.bytes]

@[simp] theorem takeMsg_bytes (m : MsgOperand) (rest : List Byte) : takeMsg (m.bytes ++ rest) = some (m, rest) := by
  simp [takeMsg, MsgOperand.bytes]

@[simp] theorem takeFrame2_bytes (f g : FrameOperand) (rest : List Byte) :
    takeFrame2 (f.bytes ++ g.bytes ++ rest) = some ((f, g), rest) := by
  simp [takeFrame2]

theorem takeSeq_bytes {b : List Byte} (h : b.length ≤ 255) (rest : List Byte) :
    takeSeq (BitVec.ofNat 8 b.length :: b ++ rest) = some (b, rest) := by
  have hn : (BitVec.ofNat 8 b.length).toNat = b.length := by simp [BitVec.toNat_ofNat]; omega
  simp [takeSeq, hn]

theorem takeImm8_eq {bs rest : List Byte} {v : Byte} (h : takeImm8 bs = some (v, rest)) : bs = v :: rest := by
  unfold takeImm8 at h; split at h <;> simp_all

theorem takeId_eq {bs rest : List Byte} {x : Half} (h : takeId bs = some (x, rest)) : bs = be16 x ++ rest := by
  unfold takeId at h
  split at h
  · obtain ⟨rfl, rfl⟩ : u16 _ _ = x ∧ _ = rest := by simpa using h
    simp [be16]
  · cases h

theorem takeMt_eq {bs rest : List Byte} {m : MtOperand} (h : takeMt bs = some (m, rest)) : bs = m.bytes ++ rest := by
  unfold takeMt at h
  split at h
  · obtain ⟨rfl, rfl⟩ : MtOperand.mk _ _ = m ∧ _ = rest := by simpa using h
    simp [MtOperand.bytes, be16]
  · cases h

theorem takeDt_eq {bs rest : List Byte} {x : DtOperand} (h : takeDt bs = some (x, rest)) : bs = x.bytes ++ rest := by
  unfold takeDt at h
  split at h
  · obtain ⟨rfl, rfl⟩ : DtOperand.mk _ _ = x ∧ _ = rest := by simpa using h
    rfl
  · cases h

theorem takeRaw_eq {bs rest : List Byte} {r : RawMessage} (h : takeRaw bs = some (r, rest)) :
    bs = r.bytes ++ rest := by
  unfold takeRaw at h
  split at h
  · obtain ⟨rfl, rfl⟩ : RawMessage.mk _ _ _ _ _ _ = r ∧ _ = rest := by simpa using h
    rfl
  · cases h

theorem takeFrame_eq {bs rest : List Byte} {f : FrameOperand} (h : takeFrame bs = some (f, rest)) :
    bs = f.bytes ++ rest := by
  unfold takeFrame at h
  split at h
  · cases h
  · next h1 =>
    split at h
    · cases h
    · next h2 =>
      obtain ⟨rfl, rfl⟩ : FrameOperand.mk _ _ = f ∧ _ = rest := by simpa using h
      simp [takeMt_eq h1, takeRaw_eq h2, FrameOperand.bytes]

theorem takeMsg_eq {bs rest : List Byte} {m : MsgOperand} (h : takeMsg bs = some (m, rest)) :
    bs = m.bytes ++ rest := by
  unfold takeMsg at h
  split at h
  · next h1 =>
    split at h
    · cases h
    · next h2 =>
      obtain ⟨rfl, rfl⟩ : MsgOperand.mk _ _ _ _ _ = m ∧ _ = rest := by simpa using h
      simp [takeMt_eq h1, takeDt_eq h2, MsgOperand.bytes]
  · cases h

theorem takeFrame2_eq {bs rest : List Byte} {fs : FrameOperand × FrameOperand}
    (h : takeFrame2 bs = some (fs, rest)) : bs = fs.1.bytes ++ fs.2.bytes ++ rest := by
  unfold takeFrame2 at h
  split at h
  · cases h
  · next h1 =>
    split at h
    · cases h
    · next h2 =>
      obtain ⟨rfl, rfl⟩ : (_, _) = fs ∧ _ = rest := by simpa using h
      simp [takeFrame_eq h1, takeFrame_eq h2]

theorem takeSeq_eq {bs rest b : List Byte} (h : takeSeq bs = some (b, rest)) :
    b.length ≤ 255 ∧ bs = BitVec.ofNat 8 b.length :: b ++ rest := by
  unfold takeSeq at h
  split at h
  · next n bs1 =>
    split at h
    · next hn =>
      obtain ⟨rfl, rfl⟩ : List.take _ _ = b ∧ List.drop _ _ = rest := by simpa using h
      have hlen : (bs1.take n.toNat).length = n.toNat := by simp [hn]
      have := n.isLt
      refine ⟨by omega, ?_⟩
      rw [hlen]
      simp
    · cases h
  · cases h

/-- What a command with operands decodes to, once and for all. -/
theorem withOperand_instr {α : Type} {mk : α → Instr} {r : Option (α × List Byte)} {i : Instr} {rest : List Byte}
    (h : withOperand mk r = .instr i rest) : ∃ x, r = some (x, rest) ∧ i = mk x := by
  unfold withOperand at h
  split at h
  · cases h
  · next x rest' =>
    obtain ⟨rfl, rfl⟩ : mk x = i ∧ rest' = rest := by simpa using h
    exact ⟨x, rfl, rfl⟩

end Sys2Proof
end

