-- ==== Sys2Proof/Laws/Framing.lean ====
section
/-! SUPPORT. RawMessage framing said once: when parsing succeeds and what it gives (R192), that the two
statements of well-formedness agree (R92), and what the conversions build (R199 to R201). -/

namespace Sys2Proof

open Sys2Proof.Machine

/-- The check the block makes is the condition of R92. -/
theorem wellFormed_iff (r : RawMessage) : r.wellFormed = true ↔ rawOk r := by
  have h4 : ∀ P : Nat → Prop, (∀ i, i < 4 → P i) ↔ P 0 ∧ P 1 ∧ P 2 ∧ P 3 := by
    intro P
    refine ⟨fun h => ⟨h 0 (by omega), h 1 (by omega), h 2 (by omega), h 3 (by omega)⟩, ?_⟩
    rintro ⟨h0, h1, h2, h3⟩ i hi
    obtain rfl | rfl | rfl | rfl : i = 0 ∨ i = 1 ∨ i = 2 ∨ i = 3 := by omega
    all_goals assumption
  have key : (∀ i (h : i < 4), r.plen.toNat ≤ i → r.payload.toList[i] = 0x00#8) ↔
      ∀ i, i < 4 → r.plen.toNat ≤ i → r.payload.toList.getD i 0x00#8 = 0x00#8 := by
    refine forall_congr' fun i => forall_congr' fun hi => ?_
    rw [List.getD_eq_getElem _ _ hi]
  rw [rawOk, key, h4]
  have imp : ∀ (a b : Nat) (p : Prop), (a < b ∨ p) ↔ (b ≤ a → p) := by
    intro a b p
    rw [← Nat.not_lt, ← or_iff_not_imp_left]
  simp only [RawMessage.wellFormed, Bool.and_eq_true, Bool.or_eq_true, decide_eq_true_eq, imp,
    List.getD_cons_zero, List.getD_cons_succ, and_assoc]
  rfl

theorem wellFormed_false_iff (r : RawMessage) : r.wellFormed = false ↔ ¬ rawOk r := by
  rw [← wellFormed_iff, Bool.not_eq_true]

/-- Fewer than four bytes are malformed (R192). -/
theorem fromBytes_short {b : List Byte} (h : b.length < 4) : RawMessage.fromBytes b = none := by
  simp [RawMessage.fromBytes, Config.hdrBytes, h]

/-- A header and what follows it (R192). -/
theorem fromBytes_cons (n t v c : Byte) (p : List Byte) :
    ∃ q : Quad, RawMessage.fromBytes (n :: t :: v :: c :: p) = some ⟨n, t, v, c, BitVec.ofNat 8 (min p.length 4), q⟩ ∧
      q.toList = (p ++ [0x00#8, 0x00#8, 0x00#8, 0x00#8]).take 4 := by
  have hp : min (p.length + 1 + 1 + 1 + 1) 8 - 4 = min p.length 4 := by omega
  rcases p with _ | ⟨p0, _ | ⟨p1, _ | ⟨p2, _ | ⟨p3, p⟩⟩⟩⟩ <;>
    simp [RawMessage.fromBytes, Config.hdrBytes, Config.frameBytes, payloadByte]

/-- A byte list is short, or a header with a payload. -/
theorem header_cases (b : List Byte) : b.length < 4 ∨ ∃ n t v c p, b = n :: t :: v :: c :: p := by
  rcases b with _ | ⟨n, _ | ⟨t, _ | ⟨v, _ | ⟨c, p⟩⟩⟩⟩ <;> simp

/-- What `fromBytes` gives is well formed (R191). -/
theorem rawOk_of_fromBytes {b : List Byte} {r : RawMessage} (h : RawMessage.fromBytes b = some r) : rawOk r := by
  obtain hs | ⟨n, t, v, c, p, rfl⟩ := header_cases b
  · simp [fromBytes_short hs] at h
  · obtain ⟨q, hq, hl⟩ := fromBytes_cons n t v c p
    obtain rfl : _ = r := Option.some.inj (hq.symm.trans h)
    have hm : (BitVec.ofNat 8 (min p.length 4)).toNat = min p.length 4 := by
      rw [BitVec.toNat_ofNat]
      omega
    refine ⟨by simp only [hm]; omega, ?_⟩
    intro i hi hle
    simp only [hm] at hle
    have hpi : p.length ≤ i := by omega
    simp only [hl]
    rw [List.getElem_take, List.getElem_append_right hpi]
    have : ∀ k (hk : k < 4), ([0x00#8, 0x00#8, 0x00#8, 0x00#8] : List Byte)[k] = 0x00#8 := by decide
    exact this _ (by omega)

/-- A received frame parses to its RawMessage, or is malformed when it has fewer than four bytes (R227). -/
theorem fromBytes_rx (rx : RxFrame) :
    RawMessage.fromBytes rx.bytes = if rx.dlc.toNat < 4 then none else some (receivedFrame rx).raw := by
  obtain ⟨id, dlc, data⟩ := rx
  have := dlc.isLt
  generalize hn : dlc.toNat = n at this
  interval_cases n <;>
    simp [RxFrame.bytes, hn, RawMessage.fromBytes, Config.hdrBytes, Config.frameBytes, payloadByte, receivedFrame,
      dataLength, zeroFrom]

/-- The RawMessage of a converted message is well formed (R191, R201). -/
theorem rawOk_frameOf (m : Message) : rawOk (frameOf m).raw := by
  rw [← wellFormed_iff]
  obtain ⟨mt, n, s, c, v⟩ := m
  cases v <;> simp [RawMessage.wellFormed, frameOf, DataType.len, DataType.encode, Config.maxPayload, Quad.zero]

/-- The bytes of a message result (R83): eleven. -/
theorem message_bytes_length (m : Message) : m.operand.bytes.length = 11 := by
  simp [Message.operand, MsgOperand.bytes, MtOperand.bytes, DtOperand.bytes, be16]

end Sys2Proof
end

