-- ==== Sys2Proof/Laws/State.lean ====
section
/-! SUPPORT. One lemma per field for each update of the state that the shared operations make. -/

namespace Sys2Proof.Machine

/-! ## respond -/

@[simp] theorem respond_init (s : State) (b : List Byte) : (respond s b).init = s.init := rfl
@[simp] theorem respond_nodeId (s : State) (b : List Byte) : (respond s b).nodeId = s.nodeId := rfl
@[simp] theorem respond_hwRev (s : State) (b : List Byte) : (respond s b).hwRev = s.hwRev := rfl
@[simp] theorem respond_swRev (s : State) (b : List Byte) : (respond s b).swRev = s.swRev := rfl
@[simp] theorem respond_config (s : State) (b : List Byte) : (respond s b).config = s.config := rfl
@[simp] theorem respond_hdrConfig (s : State) (b : List Byte) : (respond s b).hdrConfig = s.hdrConfig := rfl
@[simp] theorem respond_qOvfCnt (s : State) (b : List Byte) : (respond s b).qOvfCnt = s.qOvfCnt := rfl
@[simp] theorem respond_rq (s : State) (b : List Byte) : (respond s b).rq = s.rq := rfl
@[simp] theorem respond_txLog (s : State) (b : List Byte) : (respond s b).txLog = s.txLog := rfl
@[simp] theorem respond_cmdIn (s : State) (b : List Byte) : (respond s b).cmdIn = s.cmdIn := rfl
@[simp] theorem respond_resp (s : State) (b : List Byte) : (respond s b).resp = s.resp ++ [b] := rfl
@[simp] theorem respond_rxIn (s : State) (b : List Byte) : (respond s b).rxIn = s.rxIn := rfl
@[simp] theorem respond_polls (s : State) (b : List Byte) : (respond s b).polls = s.polls := rfl
@[simp] theorem respond_overlap (s : State) (b : List Byte) : (respond s b).overlap = s.overlap := rfl

/-- OK is the status byte 0x00 before the result. -/
@[simp] theorem completeOk_eq (s : State) (result : List Byte) : completeOk s result = respond s (0x00#8 :: result) :=
  rfl

/-- A failing command answers its status byte alone. -/
@[simp] theorem raise_eq (s : State) (st : Status) : raise s st = respond s [statusCode st] := rfl

theorem whenInit_of_true {s : State} (h : s.init = true) (t : State) : whenInit s t = t := by
  simp [whenInit, h]

theorem whenInit_of_false {s : State} (h : s.init = false) (t : State) : whenInit s t = respond s [0x04#8] := by
  simp [whenInit, h, statusCode]

/-! ## afterPoll -/

@[simp] theorem afterPoll_init (s : State) : (afterPoll s).init = s.init := rfl
@[simp] theorem afterPoll_nodeId (s : State) : (afterPoll s).nodeId = s.nodeId := rfl
@[simp] theorem afterPoll_hwRev (s : State) : (afterPoll s).hwRev = s.hwRev := rfl
@[simp] theorem afterPoll_swRev (s : State) : (afterPoll s).swRev = s.swRev := rfl
@[simp] theorem afterPoll_config (s : State) : (afterPoll s).config = s.config := rfl
@[simp] theorem afterPoll_hdrConfig (s : State) : (afterPoll s).hdrConfig = s.hdrConfig := rfl
@[simp] theorem afterPoll_qOvfCnt (s : State) : (afterPoll s).qOvfCnt = s.qOvfCnt := rfl
@[simp] theorem afterPoll_rq (s : State) : (afterPoll s).rq = s.rq := rfl
@[simp] theorem afterPoll_txLog (s : State) : (afterPoll s).txLog = s.txLog := rfl
@[simp] theorem afterPoll_cmdIn (s : State) : (afterPoll s).cmdIn = s.cmdIn := rfl
@[simp] theorem afterPoll_resp (s : State) : (afterPoll s).resp = s.resp := rfl
@[simp] theorem afterPoll_rxIn (s : State) : (afterPoll s).rxIn = s.rxIn.tail := rfl
@[simp] theorem afterPoll_polls (s : State) : (afterPoll s).polls = s.polls + 1 := rfl
@[simp] theorem afterPoll_overlap (s : State) : (afterPoll s).overlap = s.overlap := rfl

/-! ## transmit -/

@[simp] theorem transmit_init (s : State) (tx : TxFrame) : (transmit s tx).init = s.init := rfl
@[simp] theorem transmit_nodeId (s : State) (tx : TxFrame) : (transmit s tx).nodeId = s.nodeId := rfl
@[simp] theorem transmit_hwRev (s : State) (tx : TxFrame) : (transmit s tx).hwRev = s.hwRev := rfl
@[simp] theorem transmit_swRev (s : State) (tx : TxFrame) : (transmit s tx).swRev = s.swRev := rfl
@[simp] theorem transmit_config (s : State) (tx : TxFrame) : (transmit s tx).config = s.config := rfl
@[simp] theorem transmit_hdrConfig (s : State) (tx : TxFrame) : (transmit s tx).hdrConfig = s.hdrConfig := rfl
@[simp] theorem transmit_qOvfCnt (s : State) (tx : TxFrame) : (transmit s tx).qOvfCnt = s.qOvfCnt := rfl
@[simp] theorem transmit_rq (s : State) (tx : TxFrame) : (transmit s tx).rq = s.rq := rfl
@[simp] theorem transmit_txLog (s : State) (tx : TxFrame) : (transmit s tx).txLog = s.txLog ++ [tx] := rfl
@[simp] theorem transmit_cmdIn (s : State) (tx : TxFrame) : (transmit s tx).cmdIn = s.cmdIn := rfl
@[simp] theorem transmit_resp (s : State) (tx : TxFrame) : (transmit s tx).resp = s.resp := rfl
@[simp] theorem transmit_rxIn (s : State) (tx : TxFrame) : (transmit s tx).rxIn = s.rxIn := rfl
@[simp] theorem transmit_polls (s : State) (tx : TxFrame) : (transmit s tx).polls = s.polls := rfl
@[simp] theorem transmit_overlap (s : State) (tx : TxFrame) : (transmit s tx).overlap = s.overlap := rfl

end Sys2Proof.Machine
end

