-- ==== Sys2Proof/Laws/Queue.lean ====
section
/-! SUPPORT. The receive queue: where a frame goes (R235), and that the queue stays as R45 asks. -/

namespace Sys2Proof.Machine

/-- In an ascending queue the entries that a key bound admits stand in front. -/
theorem take_countP {q : List Frame} (hq : keysAscend q) {p : Frame → Bool}
    (hp : ∀ a b, keyOf a ≤ keyOf b → p b = true → p a = true) :
    q.take (q.countP p) = q.filter p ∧ q.drop (q.countP p) = q.filter (fun e => !p e) := by
  induction q with
  | nil => simp
  | cons e q ih =>
    obtain ⟨he, hq'⟩ := List.pairwise_cons.1 hq
    obtain ⟨h1, h2⟩ := ih hq'
    cases hpe : p e with
    | true => simp [hpe, h1, h2]
    | false =>
      have hall : ∀ a ∈ q, p a = false := fun a ha => by
        by_contra hc
        have := hp e a (he a ha) (by simpa using hc)
        simp [hpe] at this
      have hc : q.countP p = 0 := List.countP_eq_zero.2 (by simpa using hall)
      have hf : q.filter p = [] := List.filter_eq_nil_iff.2 (by simpa using hall)
      have hg : q.filter (fun e => !p e) = q := List.filter_eq_self.2 (by simpa using hall)
      simp [hpe, hc, hf, hg]

theorem le_key_closed (k : Half) (a b : Frame) (h : keyOf a ≤ keyOf b) (hb : decide (keyOf b ≤ k) = true) :
    decide (keyOf a ≤ k) = true := by
  simp only [decide_eq_true_eq, BitVec.le_def] at *
  omega

theorem lt_key_closed (k : Half) (a b : Frame) (h : keyOf a ≤ keyOf b) (hb : decide (keyOf b < k) = true) :
    decide (keyOf a < k) = true := by
  simp only [decide_eq_true_eq, BitVec.le_def, BitVec.lt_def] at *
  omega

/-- FIFO insertion into an ascending queue, as R235 words it. -/
theorem insert_fifo {q : List Frame} (hq : keysAscend q) (f : Frame) (choice : Nat) :
    insertFrame q f (insertIndex .fifo choice q (keyOf f)) = queueWith q f := by
  obtain ⟨h1, h2⟩ := take_countP hq (le_key_closed (keyOf f))
  simp only [insertFrame, insertIndex, queueWith, h1, h2]
  congr 2
  refine List.filter_congr fun e _ => ?_
  simp only [BitVec.le_def, BitVec.lt_def, ← decide_not]
  exact decide_eq_decide.2 (by omega)

/-- Any place between the smaller and the greater keys keeps the queue ascending. -/
theorem keysAscend_insert {q : List Frame} (hq : keysAscend q) (f : Frame) {j : Nat}
    (hlo : q.countP (fun e => decide (keyOf e < keyOf f)) ≤ j)
    (hhi : j ≤ q.countP (fun e => decide (keyOf e ≤ keyOf f))) : keysAscend (insertFrame q f j) := by
  obtain ⟨-, hdrop⟩ := take_countP hq (lt_key_closed (keyOf f))
  obtain ⟨htake, -⟩ := take_countP hq (le_key_closed (keyOf f))
  have hfront : ∀ a ∈ q.take j, keyOf a ≤ keyOf f := fun a ha => by
    have : a ∈ q.filter (fun e => decide (keyOf e ≤ keyOf f)) := by
      rw [← htake]
      exact (List.take_sublist_take_left hhi).mem ha
    simpa using (List.mem_filter.1 this).2
  have hback : ∀ b ∈ q.drop j, keyOf f ≤ keyOf b := fun b hb => by
    have : b ∈ q.filter (fun e => !decide (keyOf e < keyOf f)) := by
      rw [← hdrop]
      exact (List.drop_sublist_drop_left q hlo).mem hb
    have := (List.mem_filter.1 this).2
    simp only [Bool.not_eq_true', decide_eq_false_iff_not, BitVec.le_def, BitVec.lt_def] at this ⊢
    omega
  have hsplit : (q.take j ++ q.drop j).Pairwise (fun a b => keyOf a ≤ keyOf b) := by
    rw [List.take_append_drop]
    exact hq
  obtain ⟨h1, h2, h3⟩ := List.pairwise_append.1 hsplit
  refine List.pairwise_append.2 ⟨h1, List.pairwise_cons.2 ⟨hback, h2⟩, ?_⟩
  intro a ha b hb
  obtain rfl | hb := List.mem_cons.1 hb
  · exact hfront a ha
  · exact h3 a ha b hb

theorem countP_lt_le (q : List Frame) (k : Half) :
    q.countP (fun e => decide (keyOf e < k)) ≤ q.countP (fun e => decide (keyOf e ≤ k)) := by
  refine List.countP_mono_left fun e _ h => ?_
  simp only [decide_eq_true_eq, BitVec.le_def, BitVec.lt_def] at *
  omega

/-- Every place `insertIndex` gives is an admissible one. -/
theorem insertIndex_bounds (o : EqualKeyOrder) (choice : Nat) (q : List Frame) (k : Half) :
    q.countP (fun e => decide (keyOf e < k)) ≤ insertIndex o choice q k ∧
      insertIndex o choice q k ≤ q.countP (fun e => decide (keyOf e ≤ k)) := by
  have h := countP_lt_le q k
  cases o with
  | fifo => exact ⟨h, le_refl _⟩
  | any =>
    simp only [insertIndex]
    have := Nat.mod_lt choice (Nat.succ_pos (q.countP (fun e => decide (keyOf e ≤ k)) -
      q.countP (fun e => decide (keyOf e < k))))
    simp only [Nat.succ_eq_add_one] at this
    omega

theorem insertFrame_perm (q : List Frame) (f : Frame) (j : Nat) : (insertFrame q f j).Perm (f :: q) := by
  have := List.perm_middle (a := f) (l₁ := q.take j) (l₂ := q.drop j)
  rwa [List.take_append_drop] at this

theorem insertFrame_length (q : List Frame) (f : Frame) (j : Nat) : (insertFrame q f j).length = q.length + 1 :=
  (insertFrame_perm q f j).length_eq

/-- Everything `push` can do (R235, R236). -/
theorem push_cases (s : State) (f : Frame) :
    (s.rq.length = 10 ∧ push s f = ({ s with qOvfCnt := s.qOvfCnt + 1#32 }, .droppedQueueFull)) ∨
    (s.rq.length ≠ 10 ∧ ∃ choice : Nat,
      push s f = ({ s with rq := insertFrame s.rq f (insertIndex .fifo choice s.rq (keyOf f)) }, .queued)) := by
  by_cases h : s.rq.length = 10
  · exact .inl ⟨h, by rw [push, if_pos (show s.rq.length = Config.qcap from h)]; rfl⟩
  · exact .inr ⟨h, Config.equalKeyChoice s.polls,
      by rw [push, if_neg (show ¬ s.rq.length = Config.qcap from h)]; rfl⟩

/-- A frame inserted into a queue that is as R45 asks leaves it so. -/
theorem queueOk_insert {q : List Frame} (hq : queueOk q) (hlen : q.length ≠ 10) {f : Frame}
    (hf : frameValid f = true) (choice : Nat) :
    queueOk (insertFrame q f (insertIndex .fifo choice q (keyOf f))) := by
  obtain ⟨h1, h2, h3⟩ := hq
  obtain ⟨hlo, hhi⟩ := insertIndex_bounds .fifo choice q (keyOf f)
  refine ⟨?_, keysAscend_insert h2 f hlo hhi, ?_⟩
  · rw [insertFrame_length]
    simp only [Config.qcap] at *
    omega
  · intro e he
    obtain rfl | he := List.mem_cons.1 ((insertFrame_perm q f _).subset he)
    · exact hf
    · exact h3 e he

end Sys2Proof.Machine
end

