-- ==== Sys2Proof/Laws/Receive.lean ====
section
/-! SUPPORT. Everything a receive event can do (R226 to R236), and what holds of a frame it queues or
answers. -/

namespace Sys2Proof.Machine

/-- The identification reply to a received request (R232). -/
theorem idsReply_received (s : State) {rx : RxFrame} (h : classify rx.id ≠ .invalid) :
    idsReply s (receivedFrame rx) = ⟨rx.id + 1#16, 8#4,
      ⟨s.nodeId, 0x10#8, 0x00#8, rx.data.b3, s.hwRev, s.swRev, s.config, s.hdrConfig⟩⟩ := by
  have hk : keyOf (receivedFrame rx) = rx.id := by
    simp only [keyOf, receivedFrame, idOf_classify h, Option.getD_some]
  rw [idsReply, hk]
  rfl

theorem targetMatches_iff (s : State) (rx : RxFrame) :
    targetMatches s (receivedFrame rx) = true ↔ addressed s rx := by
  simp only [targetMatches, Bool.or_eq_true, decide_eq_true_eq]
  rfl

/-- The disposition steps in their order (R280), each with what the block does there. -/
theorem receive_cases (s : State) (rx : RxFrame) :
    (rx.dlc.toNat < 4 ∧ receive s rx = (s, .discardedMalformed)) ∨
    (4 ≤ rx.dlc.toNat ∧ 2032 ≤ rx.id.toNat ∧ receive s rx = (s, .discardedInvalidId)) ∨
    (4 ≤ rx.dlc.toNat ∧ requestIdentifier rx.id.toNat ∧ addressed s rx ∧ rx.data.b2 = 0x00#8 ∧
      receive s rx = (transmit s ⟨rx.id + 1#16, 8#4,
        ⟨s.nodeId, 0x10#8, 0x00#8, rx.data.b3, s.hwRev, s.swRev, s.config, s.hdrConfig⟩⟩, .answeredIds)) ∨
    (4 ≤ rx.dlc.toNat ∧ requestIdentifier rx.id.toNat ∧ ¬ addressed s rx ∧
      receive s rx = (s, .discardedOtherNode)) ∨
    (forQueue s rx ∧ receive s rx = push s (receivedFrame rx)) := by
  by_cases hd : rx.dlc.toNat < 4
  · exact .inl ⟨hd, by simp [receive, fromBytes_rx, hd]⟩
  have h4 : 4 ≤ rx.dlc.toNat := by omega
  by_cases hi : classify rx.id = .invalid
  · exact .inr (.inl ⟨h4, (classify_invalid_iff _).1 hi, by simp [receive, fromBytes_rx, hd, hi]⟩)
  have hid : rx.id.toNat ≤ 2031 := by
    have := mt (classify_invalid_iff _).2 hi
    omega
  have hr : receive s rx = dispatchFrame s (receivedFrame rx) := by
    simp only [receive, fromBytes_rx, hd, hi, if_false]
    rfl
  have hreq : (receivedFrame rx).mt.isRequest = true ↔ requestIdentifier rx.id.toNat := isRequest_classify rx.id
  rw [hr, dispatchFrame]
  by_cases hq : requestIdentifier rx.id.toNat
  · rw [if_pos (hreq.2 hq)]
    by_cases ha : addressed s rx
    · rw [if_pos ((targetMatches_iff s rx).2 ha), serveRequest]
      by_cases hc : rx.data.b2 = 0x00#8
      · rw [if_pos (show (receivedFrame rx).raw.serviceCode = Config.idsCode from hc), idsReply_received s hi]
        exact .inr (.inr (.inl ⟨h4, hq, ha, hc, rfl⟩))
      · rw [if_neg (show ¬ (receivedFrame rx).raw.serviceCode = Config.idsCode from hc)]
        exact .inr (.inr (.inr (.inr ⟨⟨h4, hid, fun _ => ⟨ha, hc⟩⟩, rfl⟩)))
    · rw [if_neg (mt (targetMatches_iff s rx).1 ha)]
      exact .inr (.inr (.inr (.inl ⟨h4, hq, ha, rfl⟩)))
  · rw [if_neg (mt hreq.1 hq)]
    exact .inr (.inr (.inr (.inr ⟨⟨h4, hid, fun h => absurd h hq⟩, rfl⟩)))

/-- A frame for RQ is a valid entry (R33). -/
theorem frameValid_received {s : State} {rx : RxFrame} (h : forQueue s rx) :
    frameValid (receivedFrame rx) = true := by
  obtain ⟨h4, hid, -⟩ := h
  have hi : classify rx.id ≠ .invalid := by
    rw [Ne, classify_invalid_iff]
    omega
  have hp : RawMessage.fromBytes rx.bytes = some (receivedFrame rx).raw := by
    rw [fromBytes_rx, if_neg (by omega)]
  simp only [frameValid, Bool.and_eq_true, wellFormed_iff]
  exact ⟨by simp [receivedFrame, idOf_classify hi], rawOk_of_fromBytes hp⟩

/-- What a receive event leaves, whichever way it goes: it changes RQ, Q_OVF_CNT or TXLOG, at most one of
them and nothing else (R241). -/
theorem receive_effect (s : State) (rx : RxFrame) :
    (receive s rx).1 = s ∨
    (∃ tx : TxFrame, tx.dlc = 8#4 ∧ tx.id.toNat ≤ 2031 ∧ (receive s rx).1 = transmit s tx) ∨
    (∃ q : List Frame, (queueOk s.rq → queueOk q) ∧ (receive s rx).1 = { s with rq := q }) ∨
    (receive s rx).1 = { s with qOvfCnt := s.qOvfCnt + 1#32 } := by
  obtain ⟨-, h⟩ | ⟨-, -, h⟩ | ⟨-, hq, -, -, h⟩ | ⟨-, -, -, h⟩ | ⟨hq, h⟩ := receive_cases s rx
  · exact .inl (by rw [h])
  · exact .inl (by rw [h])
  · refine .inr (.inl ⟨_, rfl, ?_, by rw [h]⟩)
    have : (rx.id + 1#16).toNat = (rx.id.toNat + 1) % 65536 := by simp
    simp only [this]
    simp only [requestIdentifier] at hq
    omega
  · exact .inl (by rw [h])
  · obtain ⟨-, hp⟩ | ⟨hl, choice, hp⟩ := push_cases s (receivedFrame rx)
    · exact .inr (.inr (.inr (by rw [h, hp])))
    · exact .inr (.inr (.inl
        ⟨_, fun hs => queueOk_insert hs hl (frameValid_received hq) choice, by rw [h, hp]⟩))

end Sys2Proof.Machine
end

