-- ==== Sys2Proof/Laws/Exec.lean ====
section
/-! SUPPORT. Everything a command can do and everything a step can do, said once. -/

namespace Sys2Proof.Machine

/-- What a command does to the state before its response is given. -/
inductive Effect (i : Instr) (s u : State) : Prop where
  | none (h : u = s)
  | poll (hi : i = .notifyRx) (hs : s.init = true) (h : u = afterPoll s)
  | frame (rx : RxFrame) (hi : i = .notifyRx) (hs : s.init = true) (h : u = (receive (afterPoll s) rx).1)
  | send (m : MsgOperand) (k : Half) (hi : i = .sendMsg m) (hs : s.init = true) (hk : idOf m.mt.type = some k)
      (h : u = transmit s (txFrame k (frameOf m.message).raw))
  | pop (f : Frame) (q : List Frame) (hi : i = .readMsg) (hs : s.init = true) (hq : s.rq = f :: q)
      (h : u = { s with rq := q })
  | build (n : Byte) (hi : i = .nodeInit n)
      (h : u = { s with
        init := true, nodeId := n, hwRev := 0x00#8, swRev := 0x00#8, config := 0x00#8, hdrConfig := 0x00#8
        qOvfCnt := 0#32, rq := [] })
  | setHwRev (v : Byte) (hi : i = .setHwRev v) (hs : s.init = true) (h : u = { s with hwRev := v })
  | setSwRev (v : Byte) (hi : i = .setSwRev v) (hs : s.init = true) (h : u = { s with swRev := v })
  | setConfig (v : Byte) (hi : i = .setConfig v) (hs : s.init = true) (h : u = { s with config := v })
  | setHdrConfig (v : Byte) (hi : i = .setHdrConfig v) (hs : s.init = true) (h : u = { s with hdrConfig := v })

theorem responseOk_ok (r : List Byte) : responseOk (0x00#8 :: r) = true := by
  simp [responseOk, statusCode]

theorem responseOk_status (st : Status) : responseOk [statusCode st] = true := by
  cases st <;> decide

/-- A guarded command does its work, or answers NOT_INITIALIZED (R24, R275). -/
theorem whenInit_cases {s d t : State} (h : (Host.Outcome.next (whenInit s d) : Host.Outcome State Fault Refusal) = .next t) :
    (s.init = true ∧ t = d) ∨ t = respond s [statusCode .notInitialized] := by
  have h := Host.Outcome.next.inj h
  obtain hi | hi := Bool.eq_false_or_eq_true s.init
  · rw [whenInit_of_true hi] at h
    exact .inl ⟨hi, h.symm⟩
  · rw [whenInit_of_false hi] at h
    exact .inr h.symm

/-- Everything a command can do: one effect, then one well-shaped response. -/
theorem exec_effect {i : Instr} {s t : State} (h : exec i s = .next t) :
    ∃ (r : List Byte) (u : State), t = respond u r ∧ responseOk r = true ∧ Effect i s u := by
  have ok := responseOk_ok
  have bad := responseOk_status
  cases i with
  | nodeInit n =>
    obtain rfl := Host.Outcome.next.inj h
    exact ⟨_, _, rfl, ok [], .build n rfl rfl⟩
  | setHwRev v =>
    obtain ⟨hs, rfl⟩ | rfl := whenInit_cases h
    · exact ⟨_, _, rfl, ok [], .setHwRev v rfl hs rfl⟩
    · exact ⟨_, s, rfl, bad _, .none rfl⟩
  | setSwRev v =>
    obtain ⟨hs, rfl⟩ | rfl := whenInit_cases h
    · exact ⟨_, _, rfl, ok [], .setSwRev v rfl hs rfl⟩
    · exact ⟨_, s, rfl, bad _, .none rfl⟩
  | setConfig v =>
    obtain ⟨hs, rfl⟩ | rfl := whenInit_cases h
    · exact ⟨_, _, rfl, ok [], .setConfig v rfl hs rfl⟩
    · exact ⟨_, s, rfl, bad _, .none rfl⟩
  | setHdrConfig v =>
    obtain ⟨hs, rfl⟩ | rfl := whenInit_cases h
    · exact ⟨_, _, rfl, ok [], .setHdrConfig v rfl hs rfl⟩
    · exact ⟨_, s, rfl, bad _, .none rfl⟩
  | notifyRx =>
    obtain ⟨hs, rfl⟩ | rfl := whenInit_cases h
    · split
      · exact ⟨_, _, rfl, ok _, .poll rfl hs rfl⟩
      · exact ⟨_, _, rfl, ok _, .frame _ rfl hs rfl⟩
    · exact ⟨_, s, rfl, bad _, .none rfl⟩
  | sendMsg m =>
    obtain ⟨hs, rfl⟩ | rfl := whenInit_cases h
    · split
      · exact ⟨_, s, rfl, bad _, .none rfl⟩
      · next k hk => exact ⟨_, _, rfl, ok _, .send m k rfl hs hk rfl⟩
    · exact ⟨_, s, rfl, bad _, .none rfl⟩
  | readMsg =>
    obtain ⟨hs, rfl⟩ | rfl := whenInit_cases h
    · split
      · exact ⟨_, s, rfl, bad _, .none rfl⟩
      · next f q hq => exact ⟨_, _, rfl, ok _, .pop f q rfl hs hq rfl⟩
    · exact ⟨_, s, rfl, bad _, .none rfl⟩
  | readStatus =>
    obtain ⟨hs, rfl⟩ | rfl := whenInit_cases h
    · exact ⟨_, s, rfl, ok _, .none rfl⟩
    · exact ⟨_, s, rfl, bad _, .none rfl⟩
  | mtId m =>
    simp only [exec, execMtId] at h
    split at h <;> obtain rfl := Host.Outcome.next.inj h
    · exact ⟨_, s, rfl, bad _, .none rfl⟩
    · exact ⟨_, s, rfl, ok _, .none rfl⟩
  | rawFromBytes b =>
    simp only [exec, execRawFromBytes] at h
    split at h <;> obtain rfl := Host.Outcome.next.inj h
    · exact ⟨_, s, rfl, bad _, .none rfl⟩
    · exact ⟨_, s, rfl, ok _, .none rfl⟩
  | rawToBytes r =>
    simp only [exec, execRawToBytes] at h
    split at h <;> obtain rfl := Host.Outcome.next.inj h
    · exact ⟨_, s, rfl, ok _, .none rfl⟩
    · exact ⟨_, s, rfl, bad _, .none rfl⟩
  | msgFromFrame f =>
    simp only [exec, execMsgFromFrame] at h
    split at h <;> obtain rfl := Host.Outcome.next.inj h
    · exact ⟨_, s, rfl, ok _, .none rfl⟩
    · exact ⟨_, s, rfl, bad _, .none rfl⟩
  | frameCmp f g =>
    simp only [exec, execFrameCmp] at h
    split at h
    · split at h <;> obtain rfl := Host.Outcome.next.inj h
      · exact ⟨_, s, rfl, bad _, .none rfl⟩
      · exact ⟨_, s, rfl, ok _, .none rfl⟩
    · obtain rfl := Host.Outcome.next.inj h
      exact ⟨_, s, rfl, bad _, .none rfl⟩
  | dtEncode x => obtain rfl := Host.Outcome.next.inj h; exact ⟨_, s, rfl, ok _, .none rfl⟩
  | dtDecode x => obtain rfl := Host.Outcome.next.inj h; exact ⟨_, s, rfl, ok _, .none rfl⟩
  | dtTypeId x => obtain rfl := Host.Outcome.next.inj h; exact ⟨_, s, rfl, ok _, .none rfl⟩
  | dtLen x => obtain rfl := Host.Outcome.next.inj h; exact ⟨_, s, rfl, ok _, .none rfl⟩
  | mtClassify id => obtain rfl := Host.Outcome.next.inj h; exact ⟨_, s, rfl, ok _, .none rfl⟩
  | rawEmpty => obtain rfl := Host.Outcome.next.inj h; exact ⟨_, s, rfl, ok _, .none rfl⟩
  | msgToFrame m => obtain rfl := Host.Outcome.next.inj h; exact ⟨_, s, rfl, ok _, .none rfl⟩

/-- Every meaning completes (R11): no command faults and none is refused. -/
theorem exec_completes (i : Instr) (s : State) : ∃ t, exec i s = .next t := by
  cases i <;> exact ⟨_, rfl⟩

/-- Only an empty port is idle. -/
theorem decode_idle {bs : List Byte} (h : decode bs = .idle) : bs = [] := by
  have W : ∀ {α : Type} (mk : α → Instr) r, withOperand mk r ≠ .idle := by
    intro α mk r
    unfold withOperand
    split <;> simp
  unfold decode at h
  split at h
  · rfl
  · split at h <;> first | exact absurd h (W _ _) | cases h

/-- Everything a step that ends in a next state can do. -/
theorem step_cases {s t : State} (h : step s = .next t) :
    s.overlap = false ∧
    ((t = s ∧ s.cmdIn = []) ∨
      (∃ op rest, decode s.cmdIn = .illegalOpcode op rest ∧ t = respond { s with cmdIn := rest } [0x05#8]) ∨
      ∃ i rest, decode s.cmdIn = .instr i rest ∧ exec i { s with cmdIn := rest } = .next t) := by
  unfold step at h
  split at h
  · cases h
  · next ho =>
    refine ⟨by simpa using ho, ?_⟩
    split at h
    · next hd => exact .inl ⟨(Host.Outcome.next.inj h).symm, decode_idle hd⟩
    · cases h
    · next op rest hd => exact .inr (.inl ⟨op, rest, hd, (Host.Outcome.next.inj h).symm⟩)
    · next i rest hd => exact .inr (.inr ⟨i, rest, hd, h⟩)

/-- A run begins with its first step. -/
theorem run_of_next (M : Host.Core) {s u : M.State} (h : M.step s = .next u) (k : Nat) :
    M.run (k + 1) s = M.run k u := by
  simp only [Host.Core.run, h]

/-- A run whose first step is refused is refused. -/
theorem run_of_refused (M : Host.Core) {s : M.State} {r : M.Refusal} (h : M.step s = .refused r) (k : Nat) :
    M.run (k + 1) s = .refused r := by
  simp only [Host.Core.run, h]

theorem run_succ_next {s u : State} (h : step s = .next u) (k : Nat) :
    Sys2Proof.core.run (k + 1) s = Sys2Proof.core.run k u := run_of_next Sys2Proof.core h k

theorem run_succ_refused {s : State} {r : Refusal} (h : step s = .refused r) (k : Nat) :
    Sys2Proof.core.run (k + 1) s = .refused r := run_of_refused Sys2Proof.core h k

/-- NOTIFY_RX on a frame: what `receive` does to the polled state, and its disposition (R226). -/
theorem notify_frame {s : State} {rx : RxFrame} (h : s.init = true) (hp : pollAnswer s = some rx) :
    exec .notifyRx s = .next (respond (receive (afterPoll s) rx).1
      [0x00#8, dispositionCode (receive (afterPoll s) rx).2]) := by
  simp only [exec, execNotifyRx, whenInit_of_true h, hp]
  rfl

/-- A frame for RQ is pushed (R233, R234). -/
theorem receive_forQueue {s : State} {rx : RxFrame} (hq : forQueue s rx) :
    receive s rx = push s (receivedFrame rx) := by
  obtain ⟨_, h⟩ | ⟨_, _, h⟩ | ⟨_, hr, _, hc, h⟩ | ⟨_, hr, hna, h⟩ | ⟨_, h⟩ := receive_cases s rx
  · have := hq.1
    omega
  · have := hq.2.1
    omega
  · exact absurd hc (hq.2.2 hr).2
  · exact absurd (hq.2.2 hr).1 hna
  · exact h

end Sys2Proof.Machine
end

