-- ==== Sys2Proof/Laws/PerInstr.lean ====
section
/-! SUPPORT. The encoding of every command has the length its opcode fixes (R82, R95), one lemma for each
constructor of Instr. -/

namespace Sys2Proof.Laws

/-- The first two bytes of a well-formed command's encoding fix its length, and its opcode is in the map. -/
def EncodeForm.Statement (i : Instr) : Prop :=
  i.wellFormed = true →
    (formatOf (opcode i)).isSome = true ∧
      (encode i).length = commandLength (opcode i) ((operandBytes i).headD 0x00#8)

theorem EncodeForm.nodeInit (n : Byte) : EncodeForm.Statement (.nodeInit n) := fun _ => ⟨rfl, rfl⟩

theorem EncodeForm.setHwRev (v : Byte) : EncodeForm.Statement (.setHwRev v) := fun _ => ⟨rfl, rfl⟩

theorem EncodeForm.setSwRev (v : Byte) : EncodeForm.Statement (.setSwRev v) := fun _ => ⟨rfl, rfl⟩

theorem EncodeForm.setConfig (v : Byte) : EncodeForm.Statement (.setConfig v) := fun _ => ⟨rfl, rfl⟩

theorem EncodeForm.setHdrConfig (v : Byte) : EncodeForm.Statement (.setHdrConfig v) := fun _ => ⟨rfl, rfl⟩

theorem EncodeForm.notifyRx : EncodeForm.Statement .notifyRx := fun _ => ⟨rfl, rfl⟩

theorem EncodeForm.sendMsg (m : MsgOperand) : EncodeForm.Statement (.sendMsg m) := fun _ => ⟨rfl, rfl⟩

theorem EncodeForm.readMsg : EncodeForm.Statement .readMsg := fun _ => ⟨rfl, rfl⟩

theorem EncodeForm.readStatus : EncodeForm.Statement .readStatus := fun _ => ⟨rfl, rfl⟩

theorem EncodeForm.dtEncode (x : DtOperand) : EncodeForm.Statement (.dtEncode x) := fun _ => ⟨rfl, rfl⟩

theorem EncodeForm.dtDecode (x : DtOperand) : EncodeForm.Statement (.dtDecode x) := fun _ => ⟨rfl, rfl⟩

theorem EncodeForm.dtTypeId (x : DtOperand) : EncodeForm.Statement (.dtTypeId x) := fun _ => ⟨rfl, rfl⟩

theorem EncodeForm.dtLen (x : DtOperand) : EncodeForm.Statement (.dtLen x) := fun _ => ⟨rfl, rfl⟩

theorem EncodeForm.mtClassify (id : Half) : EncodeForm.Statement (.mtClassify id) := fun _ => ⟨rfl, rfl⟩

theorem EncodeForm.mtId (m : MtOperand) : EncodeForm.Statement (.mtId m) := fun _ => ⟨rfl, rfl⟩

theorem EncodeForm.rawFromBytes (b : List Byte) : EncodeForm.Statement (.rawFromBytes b) := by
  intro h
  simp only [Instr.wellFormed, decide_eq_true_eq] at h
  simp [formatOf, opcode, encode, operandBytes, commandLength, fixedLength]
  omega

theorem EncodeForm.rawToBytes (r : RawMessage) : EncodeForm.Statement (.rawToBytes r) := fun _ => ⟨rfl, rfl⟩

theorem EncodeForm.rawEmpty : EncodeForm.Statement .rawEmpty := fun _ => ⟨rfl, rfl⟩

theorem EncodeForm.msgFromFrame (f : FrameOperand) : EncodeForm.Statement (.msgFromFrame f) := fun _ => ⟨rfl, rfl⟩

theorem EncodeForm.msgToFrame (m : MsgOperand) : EncodeForm.Statement (.msgToFrame m) := fun _ => ⟨rfl, rfl⟩

theorem EncodeForm.frameCmp (f1 f2 : FrameOperand) : EncodeForm.Statement (.frameCmp f1 f2) := fun _ => ⟨rfl, rfl⟩

end Sys2Proof.Laws
end

