-- ==== Sys2Proof/Machine/Assembler.lean ====
section
/-! DEFINITION. The host's side of the command port: mnemonics and assembler syntax (R81, R96), and the
pseudo-instructions (R97). The block itself reads none of it. -/

namespace Sys2Proof

/-- The mnemonic of a command (R81, R96). -/
def mnemonic (i : Instr) : String :=
  match i with
  | .nodeInit _ => "NODE_INIT"
  | .setHwRev _ => "SET_HW_REV"
  | .setSwRev _ => "SET_SW_REV"
  | .setConfig _ => "SET_CONFIG"
  | .setHdrConfig _ => "SET_HDR_CONFIG"
  | .notifyRx => "NOTIFY_RX"
  | .sendMsg _ => "SEND_MSG"
  | .readMsg => "READ_MSG"
  | .readStatus => "READ_STATUS"
  | .dtEncode _ => "DT_ENCODE"
  | .dtDecode _ => "DT_DECODE"
  | .dtTypeId _ => "DT_TYPE_ID"
  | .dtLen _ => "DT_LEN"
  | .mtClassify _ => "MT_CLASSIFY"
  | .mtId _ => "MT_ID"
  | .rawFromBytes _ => "RAW_FROM_BYTES"
  | .rawToBytes _ => "RAW_TO_BYTES"
  | .rawEmpty => "RAW_EMPTY"
  | .msgFromFrame _ => "MSG_FROM_FRAME"
  | .msgToFrame _ => "MSG_TO_FRAME"
  | .frameCmp _ _ => "FRAME_CMP"

/-- An unsigned number, decimal (R96). -/
def asmNat {w : Nat} (x : BitVec w) : String := toString x.toNat

/-- A signed field, decimal (R96, R159). -/
def asmInt {w : Nat} (x : BitVec w) : String := toString x.toInt

/-- A byte as a hex pair (R13). -/
def asmHex (b : Byte) : String :=
  String.ofList [(Nat.digitChar (b.toNat / 16)).toUpper, (Nat.digitChar (b.toNat % 16)).toUpper]

/-- A byte string: hex pairs with spaces (R13). -/
def asmBytes (bs : List Byte) : String := " ".intercalate (bs.map asmHex)

/-- `NAME(field, ...)` (R96). -/
def asmCall (name : String) (fields : List String) : String := name ++ "(" ++ ", ".intercalate fields ++ ")"

/-- A DataType operand in assembler syntax (R96). -/
def asmData (v : DataType) : String :=
  match v with
  | .nodata => "NODATA"
  | .error e => asmCall "ERROR" [asmNat e]
  | .float f => asmCall "FLOAT" [asmNat f]
  | .long x => asmCall "LONG" [asmInt x]
  | .ulong x => asmCall "ULONG" [asmNat x]
  | .blong x => asmCall "BLONG" [asmNat x]
  | .short x => asmCall "SHORT" [asmInt x]
  | .ushort x => asmCall "USHORT" [asmNat x]
  | .bshort x => asmCall "BSHORT" [asmNat x]
  | .char x => asmCall "CHAR" [asmInt x]
  | .uchar x => asmCall "UCHAR" [asmNat x]
  | .bchar x => asmCall "BCHAR" [asmNat x]
  | .short2 a b => asmCall "SHORT2" [asmInt a, asmInt b]
  | .ushort2 a b => asmCall "USHORT2" [asmNat a, asmNat b]
  | .bshort2 a b => asmCall "BSHORT2" [asmNat a, asmNat b]
  | .char4 a b c e => asmCall "CHAR4" [asmInt a, asmInt b, asmInt c, asmInt e]
  | .uchar4 a b c e => asmCall "UCHAR4" [asmNat a, asmNat b, asmNat c, asmNat e]
  | .bchar4 a b c e => asmCall "BCHAR4" [asmNat a, asmNat b, asmNat c, asmNat e]
  | .char2 a b => asmCall "CHAR2" [asmInt a, asmInt b]
  | .uchar2 a b => asmCall "UCHAR2" [asmNat a, asmNat b]
  | .bchar2 a b => asmCall "BCHAR2" [asmNat a, asmNat b]
  | .memid m => asmCall "MEMID" [asmNat m]
  | .chksum c => asmCall "CHKSUM" [asmNat c]
  | .achar a => asmCall "ACHAR" [asmNat a]
  | .achar2 a b => asmCall "ACHAR2" [asmNat a, asmNat b]
  | .achar4 a b c e => asmCall "ACHAR4" [asmNat a, asmNat b, asmNat c, asmNat e]
  | .char3 a b c => asmCall "CHAR3" [asmInt a, asmInt b, asmInt c]
  | .uchar3 a b c => asmCall "UCHAR3" [asmNat a, asmNat b, asmNat c]
  | .bchar3 a b c => asmCall "BCHAR3" [asmNat a, asmNat b, asmNat c]
  | .achar3 a b c => asmCall "ACHAR3" [asmNat a, asmNat b, asmNat c]
  | .doubleh h => asmCall "DOUBLEH" [asmNat h]
  | .doublel l => asmCall "DOUBLEL" [asmNat l]
  | .resvd => "RESVD"
  | .udef t _ x => asmCall "UDEF" [asmNat t, asmNat x]

/-- A DataType operand: by name where it is canonical, else raw (R96). -/
def asmDt (x : DtOperand) : String :=
  if x.value.canon = x then asmData x.value else "tag:" ++ asmNat x.tag ++ " data:" ++ asmBytes x.d.toList

/-- The name of a class (R170). -/
def asmClass (c : MsgClass) : String :=
  match c with
  | .eed => "EED"
  | .nsh => "NSH"
  | .udh => "UDH"
  | .nod => "NOD"
  | .udl => "UDL"
  | .dsd => "DSD"
  | .nsl => "NSL"

/-- A MessageType operand in assembler syntax (R96). -/
def asmType (mt : MessageType) : String :=
  match mt with
  | .valued c v => asmCall (asmClass c) [asmNat v]
  | .invalid => "INVALID"

/-- A bracketed byte sequence (R96). -/
def asmSeq (bs : List Byte) : String := "[" ++ asmBytes bs ++ "]"

/-- A RAW operand in assembler syntax (R96); the two characters are the curly brackets. -/
def asmRaw (r : RawMessage) : String :=
  String.singleton (Char.ofNat 123) ++ "node=" ++ asmNat r.nodeId ++ ", tag=" ++ asmNat r.typeTag ++ ", svc="
    ++ asmNat r.serviceCode ++ ", code=" ++ asmNat r.messageCode ++ ", plen=" ++ asmNat r.plen ++ ", p="
    ++ asmSeq r.payload.toList ++ String.singleton (Char.ofNat 125)

/-- A FRAME operand in assembler syntax (R96). -/
def asmFrame (f : FrameOperand) : String := asmType f.mt.type ++ ", " ++ asmRaw f.raw

/-- A MSG operand in assembler syntax (R96). -/
def asmMsg (m : MsgOperand) : String :=
  asmType m.mt.type ++ ", node=" ++ asmNat m.nodeId ++ ", svc=" ++ asmNat m.serviceCode ++ ", code="
    ++ asmNat m.messageCode ++ ", " ++ asmDt m.data

/-- The operand text of a command, empty where it has none (R96). -/
def asmOperands (i : Instr) : String :=
  match i with
  | .nodeInit n => asmNat n
  | .setHwRev v => asmNat v
  | .setSwRev v => asmNat v
  | .setConfig v => asmNat v
  | .setHdrConfig v => asmNat v
  | .notifyRx => ""
  | .sendMsg m => asmMsg m
  | .readMsg => ""
  | .readStatus => ""
  | .dtEncode x => asmDt x
  | .dtDecode x => asmDt x
  | .dtTypeId x => asmDt x
  | .dtLen x => asmDt x
  | .mtClassify id => asmNat id
  | .mtId m => asmType m.type
  | .rawFromBytes b => asmSeq b
  | .rawToBytes r => asmRaw r
  | .rawEmpty => ""
  | .msgFromFrame f => asmFrame f
  | .msgToFrame m => asmMsg m
  | .frameCmp f1 f2 => asmFrame f1 ++ ", " ++ asmFrame f2

/-- One line of assembler text for a command (R96), without a comment. -/
def asmLine (i : Instr) : String :=
  if asmOperands i = "" then mnemonic i else mnemonic i ++ " " ++ asmOperands i

/-- The line before a NOTIFY_RX, for the driver's answer it consumes (R96): the data bytes delivered. -/
def asmAnswer (a : Option RxFrame) : String :=
  match a with
  | none => "; rx: none"
  | some rx => "; rx: id=" ++ asmNat rx.id ++ " dlc=" ++ asmNat rx.dlc ++ " data=" ++ asmBytes rx.bytes

/-- The pseudo-instruction SET_IDENT (R97). -/
def pseudoSetIdent (hw sw cfg hdr : Byte) : List Instr :=
  [.setHwRev hw, .setSwRev sw, .setConfig cfg, .setHdrConfig hdr]

/-- The pseudo-instruction POLL k (R97). -/
def pseudoPoll (k : Nat) : List Instr := List.replicate k .notifyRx

/-- The pseudo-instruction DRAIN (R97) on a queue of k entries, no NOTIFY_RX intervening: READ_MSG until
the response is NONE, which is the (k+1)-th. -/
def pseudoDrain (k : Nat) : List Instr := List.replicate (k + 1) .readMsg

end Sys2Proof
end

