-- ==== Sys2Proof/Tests/Slice0.lean ====
section
/-! SUPPORT. The model's own tests. Expected results come from spec/: the encoding tables of 30_encoding.md
and the vectors of 95_test_vectors.md, named before each group. The last part gives, for each statement
with hypotheses, a concrete state and operands that meet them. -/

namespace Sys2Proof.Tests

open Sys2Proof.Machine

/-! ## Helpers -/

/-- The node engine after the set-up of section 2.5 of 95_test_vectors.md. -/
def node : State :=
  { State.reset with init := true, nodeId := 10#8, hwRev := 1#8, swRev := 2#8, config := 3#8, hdrConfig := 4#8 }

/-- A queued NOD frame, as program P3 has them. -/
def nod (id : Half) : Frame := ⟨.valued .nod id, ⟨0x01#8, 0x00#8, 0x00#8, 0x00#8, 0x00#8, Quad.zero⟩⟩

/-- A node whose queue holds ten entries, NOD(300) to NOD(309). -/
def full : State :=
  { node with rq := [nod 300#16, nod 301#16, nod 302#16, nod 303#16, nod 304#16, nod 305#16, nod 306#16,
      nod 307#16, nod 308#16, nod 309#16] }

/-- A received frame of four data bytes. -/
def rx4 (id : Half) (b0 b1 b2 b3 : Byte) : RxFrame :=
  ⟨id, 4#4, ⟨b0, b1, b2, b3, 0x00#8, 0x00#8, 0x00#8, 0x00#8⟩⟩

/-- The state after one step, where the step ends in one. -/
def stepped (s : State) : Option State :=
  match step s with
  | .next t => some t
  | .fault _ => none
  | .refused _ => none

/-- The state after one step on the bytes of a command. -/
def after (s : State) (command : List Byte) : Option State := stepped { s with cmdIn := command }

/-- The responses after one step on the bytes of a command. -/
def answer (s : State) (command : List Byte) : Option (List (List Byte)) := (after s command).map State.resp

/-- One NOTIFY_RX with the driver holding `rx`. -/
def notify (s : State) (rx : RxFrame) : Option State := after { s with rxIn := [some rx] } [0x06#8]

/-! ## Well-formedness: F_SEQ carries its length in one byte (R82) -/

theorem test_wellFormed_refuses_256_bytes :
    (Instr.rawFromBytes (List.replicate 256 0x00#8)).wellFormed = false := by
  simp only [Instr.wellFormed, List.length_replicate]
  decide

theorem test_wellFormed_accepts_255_bytes :
    (Instr.rawFromBytes (List.replicate 255 0x00#8)).wellFormed = true := by
  simp only [Instr.wellFormed, List.length_replicate]
  decide

/-! ## Decoding: a command of every constructor, its bytes written out from the tables of R81 and R82 -/

theorem test_decode_nodeInit : decode [0x01#8, 0x0A#8] = .instr (.nodeInit 10#8) [] := by decide

theorem test_decode_setHwRev : decode [0x02#8, 0x81#8] = .instr (.setHwRev 0x81#8) [] := by decide

theorem test_decode_setSwRev : decode [0x03#8, 0x81#8] = .instr (.setSwRev 0x81#8) [] := by decide

theorem test_decode_setConfig : decode [0x04#8, 0x5A#8] = .instr (.setConfig 0x5A#8) [] := by decide

theorem test_decode_setHdrConfig : decode [0x05#8, 0x01#8] = .instr (.setHdrConfig 0x01#8) [] := by decide

theorem test_decode_notifyRx : decode [0x06#8, 0x08#8] = .instr .notifyRx [0x08#8] := by decide

theorem test_decode_sendMsg :
    decode [0x07#8, 0x03#8, 0x01#8, 0x2C#8, 0x0A#8, 0xFF#8, 0x00#8, 0x0D#8, 0xDE#8, 0xAD#8, 0xBE#8, 0xEF#8] =
      .instr (.sendMsg ⟨⟨0x03#8, 300#16⟩, 0x0A#8, 0xFF#8, 0x00#8,
        ⟨0x0D#8, ⟨0xDE#8, 0xAD#8, 0xBE#8, 0xEF#8⟩⟩⟩) [] := by decide

theorem test_decode_readMsg : decode [0x08#8] = .instr .readMsg [] := by decide

theorem test_decode_readStatus : decode [0x09#8] = .instr .readStatus [] := by decide

theorem test_decode_dtEncode :
    decode [0x10#8, 0x0D#8, 0x81#8, 0x82#8, 0x83#8, 0x84#8] =
      .instr (.dtEncode ⟨0x0D#8, ⟨0x81#8, 0x82#8, 0x83#8, 0x84#8⟩⟩) [] := by decide

theorem test_decode_dtDecode :
    decode [0x11#8, 0x0D#8, 0x81#8, 0x82#8, 0x83#8, 0x84#8] =
      .instr (.dtDecode ⟨0x0D#8, ⟨0x81#8, 0x82#8, 0x83#8, 0x84#8⟩⟩) [] := by decide

theorem test_decode_dtTypeId :
    decode [0x12#8, 0x0D#8, 0x81#8, 0x82#8, 0x83#8, 0x84#8] =
      .instr (.dtTypeId ⟨0x0D#8, ⟨0x81#8, 0x82#8, 0x83#8, 0x84#8⟩⟩) [] := by decide

theorem test_decode_dtLen :
    decode [0x13#8, 0x0D#8, 0x81#8, 0x82#8, 0x83#8, 0x84#8] =
      .instr (.dtLen ⟨0x0D#8, ⟨0x81#8, 0x82#8, 0x83#8, 0x84#8⟩⟩) [] := by decide

theorem test_decode_mtClassify : decode [0x20#8, 0x07#8, 0xF0#8] = .instr (.mtClassify 2032#16) [] := by decide

theorem test_decode_mtId : decode [0x21#8, 0x01#8, 0x00#8, 0x7F#8] = .instr (.mtId ⟨0x01#8, 127#16⟩) [] := by decide

theorem test_decode_rawFromBytes :
    decode [0x30#8, 0x03#8, 0x0A#8, 0x0B#8, 0x0C#8, 0x32#8] =
      .instr (.rawFromBytes [0x0A#8, 0x0B#8, 0x0C#8]) [0x32#8] := by decide

theorem test_decode_rawToBytes :
    decode [0x31#8, 0x01#8, 0x02#8, 0x03#8, 0x04#8, 0x02#8, 0xAA#8, 0xBB#8, 0x00#8, 0x00#8] =
      .instr (.rawToBytes ⟨0x01#8, 0x02#8, 0x03#8, 0x04#8, 0x02#8, ⟨0xAA#8, 0xBB#8, 0x00#8, 0x00#8⟩⟩) [] := by
  decide

theorem test_decode_rawEmpty : decode [0x32#8] = .instr .rawEmpty [] := by decide

theorem test_decode_msgFromFrame :
    decode [0x40#8, 0x03#8, 0x01#8, 0x2C#8, 0x0A#8, 0x0D#8, 0xFF#8, 0x00#8, 0x04#8, 0xDE#8, 0xAD#8, 0xBE#8, 0xEF#8] =
      .instr (.msgFromFrame ⟨⟨0x03#8, 300#16⟩,
        ⟨0x0A#8, 0x0D#8, 0xFF#8, 0x00#8, 0x04#8, ⟨0xDE#8, 0xAD#8, 0xBE#8, 0xEF#8⟩⟩⟩) [] := by decide

theorem test_decode_msgToFrame :
    decode [0x41#8, 0x05#8, 0x07#8, 0x9E#8, 0x01#8, 0x0E#8, 0x03#8, 0x1B#8, 0x41#8, 0x42#8, 0x43#8, 0x44#8] =
      .instr (.msgToFrame ⟨⟨0x05#8, 1950#16⟩, 0x01#8, 0x0E#8, 0x03#8,
        ⟨0x1B#8, ⟨0x41#8, 0x42#8, 0x43#8, 0x44#8⟩⟩⟩) [] := by decide

theorem test_decode_frameCmp :
    decode [0x42#8, 0x02#8, 0x01#8, 0x29#8, 0x01#8, 0x0A#8, 0x00#8, 0x01#8, 0x01#8, 0x11#8, 0x00#8, 0x00#8, 0x00#8,
        0x04#8, 0x07#8, 0x11#8, 0x01#8, 0x0A#8, 0x00#8, 0x02#8, 0x01#8, 0x22#8, 0x00#8, 0x00#8, 0x00#8] =
      .instr (.frameCmp ⟨⟨0x02#8, 297#16⟩, ⟨0x01#8, 0x0A#8, 0x00#8, 0x01#8, 0x01#8, ⟨0x11#8, 0x00#8, 0x00#8, 0x00#8⟩⟩⟩
        ⟨⟨0x04#8, 1809#16⟩, ⟨0x01#8, 0x0A#8, 0x00#8, 0x02#8, 0x01#8, ⟨0x22#8, 0x00#8, 0x00#8, 0x00#8⟩⟩⟩) [] := by
  decide

/-- The edges of the illegal opcode ranges (R93), and the legal opcodes beside them. -/
theorem test_decode_illegal_opcode_edges :
    (∀ op ∈ ([0x00#8, 0x0A#8, 0x0F#8, 0x14#8, 0x1F#8, 0x22#8, 0x2F#8, 0x33#8, 0x3F#8, 0x43#8, 0x80#8, 0xFF#8] : List Byte),
      decode [op] = .illegalOpcode op []) ∧
    (∀ op ∈ ([0x01#8, 0x09#8, 0x10#8, 0x13#8, 0x20#8, 0x21#8, 0x30#8, 0x32#8, 0x40#8, 0x42#8] : List Byte),
      decode [op] ≠ .illegalOpcode op []) := by decide

/-! ## The host's numbering of a table word, and the fetch -/

theorem test_decodeTableWord_one_byte_row : decodeTableWord 8 0x06 = some .notifyRx := by decide

/-- Byte 1 of the command is bits 15..8. -/
theorem test_decodeTableWord_two_byte_row : decodeTableWord 16 0x0A01 = some (.nodeInit 10#8) := by decide

/-- Bits the table does not give are zero, so this F_SEQ has n = 0. -/
theorem test_decodeTableWord_sequence : decodeTableWord 8 0x30 = some (.rawFromBytes []) := by decide

theorem test_withFetchWord_runs_the_command :
    (stepped (State.reset.withFetchWord 16 0x0A01)).map (fun t => (t.init, t.nodeId, t.cmdIn, t.resp)) =
      some (true, 10#8, [], [[0x00#8]]) := by decide

/-! ## Node engine (sections 1, 2.5 and 2.6 of 95_test_vectors.md) -/

/-- Section 2.5, "NODE_INIT again". -/
theorem test_nodeInit_again :
    (after { full with qOvfCnt := 2#32 } [0x01#8, 0x14#8]).map
        (fun t => ((t.resp, t.nodeId, t.hwRev), t.hdrConfig, t.qOvfCnt, t.rq)) =
      some (([[0x00#8]], 20#8, 0x00#8), 0x00#8, 0#32, []) := by decide

/-- Section 2.6, "NODE_INIT at power-on". -/
theorem test_nodeInit_at_power_on :
    (after State.reset [0x01#8, 0x00#8]).map (fun t => (t.resp, t.init, t.nodeId)) =
      some ([[0x00#8]], true, 0x00#8) := by decide

/-- Program P1, line 3: SET_HW_REV 2. -/
theorem test_setHwRev : (after node [0x02#8, 0x02#8]).map (fun t => (t.resp, t.hwRev, t.swRev)) =
    some ([[0x00#8]], 2#8, 2#8) := by decide

/-- Program P1, line 4: SET_SW_REV 3. -/
theorem test_setSwRev : (after node [0x03#8, 0x03#8]).map (fun t => (t.resp, t.hwRev, t.swRev)) =
    some ([[0x00#8]], 1#8, 3#8) := by decide

/-- Program P1, line 5: SET_CONFIG 90. -/
theorem test_setConfig : (after node [0x04#8, 0x5A#8]).map (fun t => (t.resp, t.config, t.hdrConfig)) =
    some ([[0x00#8]], 0x5A#8, 4#8) := by decide

/-- Program P1, line 6: SET_HDR_CONFIG 1. -/
theorem test_setHdrConfig : (after node [0x05#8, 0x01#8]).map (fun t => (t.resp, t.config, t.hdrConfig)) =
    some ([[0x00#8]], 3#8, 1#8) := by decide

/-- Section 2.6: each node command before NODE_INIT. -/
theorem test_node_commands_before_nodeInit :
    ∀ c ∈ ([[0x02#8, 0x01#8], [0x03#8, 0x01#8], [0x04#8, 0x01#8], [0x05#8, 0x01#8], [0x08#8], [0x09#8],
        [0x07#8, 0x07#8, 0x00#8, 0x00#8, 0x00#8, 0x00#8, 0x00#8, 0x00#8, 0x00#8, 0x00#8, 0x00#8, 0x00#8]] :
          List (List Byte)),
      answer State.reset c = some [[0x04#8]] := by decide

/-- Section 2.6: NOTIFY_RX before NODE_INIT leaves the frame in the driver. -/
theorem test_notifyRx_before_nodeInit :
    (notify State.reset (rx4 128#16 0x0A#8 0x00#8 0x00#8 0x00#8)).map (fun t => (t.resp, t.rxIn.length)) =
      some ([[0x04#8]], 1) := by decide

/-- Section 2.5, "IDS broadcast, NSL 2030": the reply's fields in wire order. -/
theorem test_notifyRx_answers_broadcast :
    (notify node (rx4 2030#16 0x00#8 0x0A#8 0x00#8 0x03#8)).map (fun t => (t.resp, t.txLog, t.rq)) =
      some ([[0x00#8, 0x01#8]],
        [⟨2031#16, 8#4, ⟨0x0A#8, 0x10#8, 0x00#8, 0x03#8, 0x01#8, 0x02#8, 0x03#8, 0x04#8⟩⟩], []) := by decide

/-- Section 2.5, "queue full, EED 5 (lower key)". -/
theorem test_notifyRx_drops_a_lower_key_when_full :
    (notify full (rx4 5#16 0x01#8 0x00#8 0x00#8 0x00#8)).map (fun t => (t.resp, t.qOvfCnt, t.rq)) =
      some ([[0x00#8, 0x03#8]], 1#32, full.rq) := by decide

/-- Program P4, line 6: the node id goes out as given. -/
theorem test_sendMsg_keeps_the_node_id :
    (after node [0x07#8, 0x01#8, 0x00#8, 0x82#8, 0x0C#8, 0x00#8, 0x01#8, 0x00#8, 0x00#8, 0x00#8, 0x00#8, 0x00#8]).map
        (fun t => (t.resp, t.txLog)) =
      some ([[0x00#8]], [⟨130#16, 8#4, ⟨0x0C#8, 0x00#8, 0x00#8, 0x01#8, 0x00#8, 0x00#8, 0x00#8, 0x00#8⟩⟩]) := by decide

/-- Section 2.5, "SEND_MSG NSH(127)". -/
theorem test_sendMsg_out_of_range :
    (after node [0x07#8, 0x01#8, 0x00#8, 0x7F#8, 0x0A#8, 0x00#8, 0x00#8, 0x00#8, 0x00#8, 0x00#8, 0x00#8, 0x00#8]).map
        (fun t => (t.resp, t.txLog)) = some ([[0x03#8]], []) := by decide

/-- Program P3, line 16: the head comes out decoded. -/
theorem test_readMsg_head :
    (after { node with rq := [⟨.valued .nod 300#16, ⟨0x01#8, 0x04#8, 0x00#8, 0x00#8, 0x04#8, Quad.zero⟩⟩, nod 301#16] }
        [0x08#8]).map (fun t => (t.resp, t.rq)) =
      some ([[0x00#8, 0x03#8, 0x01#8, 0x2C#8, 0x01#8, 0x00#8, 0x00#8, 0x04#8, 0x00#8, 0x00#8, 0x00#8, 0x00#8]],
        [nod 301#16]) := by decide

/-- Section 2.5, "READ_MSG empty". -/
theorem test_readMsg_empty : answer node [0x08#8] = some [[0x01#8]] := by decide

/-- Section 2.5, "READ_STATUS, queue full after 2 drops". -/
theorem test_readStatus :
    answer { full with qOvfCnt := 2#32 } [0x09#8] = some [[0x00#8, 0x0A#8, 0x00#8, 0x00#8, 0x00#8, 0x02#8]] := by decide

/-! ## DataType codec (sections 1 and 2.1 of 95_test_vectors.md) -/

/-- "CHAR3 drops byte 3". -/
theorem test_dtEncode_char3 : answer State.reset [0x10#8, 0x1A#8, 0x80#8, 0x7F#8, 0xFF#8, 0x55#8] =
    some [[0x00#8, 0x1A#8, 0x80#8, 0x7F#8, 0xFF#8, 0x00#8]] := by decide

/-- "RESVD with all ones". -/
theorem test_dtEncode_resvd : answer State.reset [0x10#8, 0x20#8, 0xFF#8, 0xFF#8, 0xFF#8, 0xFF#8] =
    some [[0x00#8, 0x20#8, 0x00#8, 0x00#8, 0x00#8, 0x00#8]] := by decide

/-- S10, the USHORT2 reference defect: the second field is read from bytes 2 and 3 (R153). -/
theorem test_dtDecode_ushort2 : answer State.reset [0x11#8, 0x0D#8, 0xDE#8, 0xAD#8, 0xBE#8, 0xEF#8] =
    some [[0x00#8, 0x0D#8, 0xDE#8, 0xAD#8, 0xBE#8, 0xEF#8]] := by decide

/-- Tag 0x06 with a noisy slot: SHORT(-32382), bytes 2 and 3 cleared. -/
theorem test_dtDecode_short :
    DataType.decode 0x06#8 ⟨0x81#8, 0x82#8, 0x83#8, 0x84#8⟩ = .short (BitVec.ofInt 16 (-32382)) ∧
    answer State.reset [0x11#8, 0x06#8, 0x81#8, 0x82#8, 0x83#8, 0x84#8] =
      some [[0x00#8, 0x06#8, 0x81#8, 0x82#8, 0x00#8, 0x00#8]] := by decide

/-- S2, tag 0xFF. -/
theorem test_dtTypeId_undefined : answer State.reset [0x12#8, 0xFF#8, 0xDE#8, 0xAD#8, 0xBE#8, 0xEF#8] =
    some [[0x00#8, 0xFF#8]] := by decide

/-- "DT_TYPE_ID of a defined tag". -/
theorem test_dtTypeId_memid : answer State.reset [0x12#8, 0x15#8, 0x00#8, 0x01#8, 0x00#8, 0x00#8] =
    some [[0x00#8, 0x15#8]] := by decide

/-- "DT_LEN of UCHAR3". -/
theorem test_dtLen_uchar3 : answer State.reset [0x13#8, 0x1B#8, 0x01#8, 0x02#8, 0x03#8, 0x04#8] =
    some [[0x00#8, 0x03#8]] := by decide

/-- "DT_LEN of UDEF". -/
theorem test_dtLen_udef : answer State.reset [0x13#8, 0x21#8, 0x00#8, 0x00#8, 0x00#8, 0x00#8] =
    some [[0x00#8, 0x04#8]] := by decide

/-! ## Classifier (S3 and S4) -/

theorem test_mtClassify_nsl_2031 : answer State.reset [0x20#8, 0x07#8, 0xEF#8] =
    some [[0x00#8, 0x06#8, 0x07#8, 0xEF#8]] := by decide

theorem test_mtClassify_invalid_2032 : answer State.reset [0x20#8, 0x07#8, 0xF0#8] =
    some [[0x00#8, 0x07#8, 0x00#8, 0x00#8]] := by decide

theorem test_mtId_nsh_128 : answer State.reset [0x21#8, 0x01#8, 0x00#8, 0x80#8] =
    some [[0x00#8, 0x00#8, 0x80#8]] := by decide

theorem test_mtId_nsh_127 : answer State.reset [0x21#8, 0x01#8, 0x00#8, 0x7F#8] = some [[0x03#8]] := by decide

/-! ## Framing and conversions (sections 2.3 and 2.4) -/

/-- n = 9: the ninth byte is ignored. -/
theorem test_rawFromBytes_nine :
    answer State.reset [0x30#8, 0x09#8, 0x01#8, 0x02#8, 0x03#8, 0x04#8, 0xAA#8, 0xBB#8, 0xCC#8, 0xDD#8, 0xEE#8] =
      some [[0x00#8, 0x01#8, 0x02#8, 0x03#8, 0x04#8, 0x04#8, 0xAA#8, 0xBB#8, 0xCC#8, 0xDD#8]] := by decide

theorem test_rawFromBytes_three : answer State.reset [0x30#8, 0x03#8, 0x01#8, 0x02#8, 0x03#8] =
    some [[0x02#8]] := by decide

/-- "to_bytes, plen 2". -/
theorem test_rawToBytes_two :
    answer State.reset [0x31#8, 0x01#8, 0x02#8, 0x03#8, 0x04#8, 0x02#8, 0xAA#8, 0xBB#8, 0x00#8, 0x00#8] =
      some [[0x00#8, 0x01#8, 0x02#8, 0x03#8, 0x04#8, 0xAA#8, 0xBB#8, 0x00#8, 0x00#8]] := by decide

/-- "to_bytes, nonzero padding". -/
theorem test_rawToBytes_padding :
    answer State.reset [0x31#8, 0x01#8, 0x02#8, 0x03#8, 0x04#8, 0x01#8, 0xAA#8, 0xBB#8, 0x00#8, 0x00#8] =
      some [[0x02#8]] := by decide

theorem test_rawEmpty : answer State.reset [0x32#8] =
    some [[0x00#8, 0x00#8, 0x00#8, 0x00#8, 0x00#8, 0x00#8, 0x00#8, 0x00#8, 0x00#8, 0x00#8]] := by decide

/-- "frame with INVALID mt". -/
theorem test_msgFromFrame_invalid_type :
    answer State.reset
        [0x40#8, 0x09#8, 0x04#8, 0xD2#8, 0x01#8, 0x0A#8, 0x00#8, 0x00#8, 0x01#8, 0x05#8, 0x00#8, 0x00#8, 0x00#8] =
      some [[0x00#8, 0x07#8, 0x00#8, 0x00#8, 0x01#8, 0x00#8, 0x00#8, 0x0A#8, 0x05#8, 0x00#8, 0x00#8, 0x00#8]] := by
  decide

/-- "frame ill-formed". -/
theorem test_msgFromFrame_ill_formed :
    answer State.reset
        [0x40#8, 0x03#8, 0x01#8, 0xF4#8, 0x02#8, 0x06#8, 0x00#8, 0x00#8, 0x00#8, 0x80#8, 0x00#8, 0x00#8, 0x00#8] =
      some [[0x02#8]] := by decide

/-- "message UCHAR3": plen 3, byte 3 cleared. -/
theorem test_msgToFrame_uchar3 :
    answer State.reset
        [0x41#8, 0x05#8, 0x07#8, 0x9E#8, 0x01#8, 0x0E#8, 0x03#8, 0x1B#8, 0x41#8, 0x42#8, 0x43#8, 0x44#8] =
      some [[0x00#8, 0x05#8, 0x07#8, 0x9E#8, 0x01#8, 0x1B#8, 0x0E#8, 0x03#8, 0x03#8, 0x41#8, 0x42#8, 0x43#8, 0x00#8]] := by
  decide

/-- S5, B and C: greater. -/
theorem test_frameCmp_greater :
    answer State.reset
        [0x42#8, 0x04#8, 0x07#8, 0x11#8, 0x01#8, 0x0A#8, 0x00#8, 0x02#8, 0x01#8, 0x22#8, 0x00#8, 0x00#8, 0x00#8,
          0x02#8, 0x01#8, 0x29#8, 0x01#8, 0x0A#8, 0x00#8, 0x03#8, 0x01#8, 0x33#8, 0x00#8, 0x00#8, 0x00#8] =
      some [[0x00#8, 0x02#8]] := by decide

/-- "cmp: first malformed, second INVALID": MALFORMED_FRAME comes first (R279). -/
theorem test_frameCmp_malformed_before_out_of_range :
    answer State.reset
        [0x42#8, 0x01#8, 0x00#8, 0x80#8, 0x00#8, 0x00#8, 0x00#8, 0x00#8, 0x07#8, 0x00#8, 0x00#8, 0x00#8, 0x00#8,
          0x07#8, 0x00#8, 0x00#8, 0x00#8, 0x00#8, 0x00#8, 0x00#8, 0x00#8, 0x00#8, 0x00#8, 0x00#8, 0x00#8] =
      some [[0x02#8]] := by decide

/-! ## Illegal opcodes and the port -/

/-- Program P4, line 7: 0A is one byte long, and 06 after it is the next command. -/
theorem test_illegal_opcode_consumes_one_byte :
    (after node [0x0A#8, 0x06#8]).map (fun t => (t.resp, t.cmdIn)) = some ([[0x05#8]], [0x06#8]) := by decide

/-- Assembler syntax (R96, R97): the F_IMM8 line of R96 and SET_IDENT. -/
theorem test_assembler_line :
    asmLine (.nodeInit 10#8) = "NODE_INIT 10" ∧
      pseudoSetIdent 1#8 2#8 3#8 4#8 = [.setHwRev 1#8, .setSwRev 2#8, .setConfig 3#8, .setHdrConfig 4#8] := by
  decide

/-! ## Witnesses: the hypotheses of each statement can be met -/

/-- DecodeOfEncodeIsTheCommand, PartialCommandHasNoStep. -/
theorem test_witness_well_formed_commands :
    (Instr.rawFromBytes (List.replicate 255 0x7F#8)).wellFormed = true ∧ Instr.readMsg.wellFormed = true := by
  simp only [Instr.wellFormed, List.length_replicate]
  decide

/-- PartialCommandHasNoStep: one byte and eleven bytes of the twelve of a SEND_MSG. -/
theorem test_witness_partial_command :
    let i := Instr.sendMsg ⟨⟨0x03#8, 300#16⟩, 0x0A#8, 0xFF#8, 0x00#8, ⟨0x0D#8, Quad.zero⟩⟩
    i.wellFormed = true ∧ 0 < 1 ∧ 1 < (encode i).length ∧ 11 < (encode i).length ∧
      { State.reset with cmdIn := [0x07#8] }.overlap = false ∧
      { State.reset with cmdIn := [0x07#8] }.cmdIn = (encode i).take 1 := by decide

/-- DecodedBytesAreTheEncoding, OpcodeFixesTheCommandLength (its F_SEQ row), StepRunsTheDecodedCommand. -/
theorem test_witness_decoded_command :
    let s := { node with cmdIn := [0x30#8, 0x04#8, 0x0A#8, 0x06#8, 0x00#8, 0x01#8, 0x09#8] }
    s.overlap = false ∧ decode s.cmdIn = .instr (.rawFromBytes [0x0A#8, 0x06#8, 0x00#8, 0x01#8]) [0x09#8] := by decide

/-- IllegalOpcodeCompletesAndConsumesOneByte, EveryCommandCompletesWithinItsStatuses (its second clause). -/
theorem test_witness_illegal_opcode :
    let s := { node with cmdIn := [0x43#8, 0x06#8] }
    s.overlap = false ∧ s.cmdIn = [0x43#8, 0x06#8] ∧ 0x43 ≤ (0x43#8).toNat ∧
      decode s.cmdIn = .illegalOpcode 0x43#8 [0x06#8] := by decide

/-- EmptyPortHoldsTheState. -/
theorem test_witness_empty_port : node.overlap = false ∧ node.cmdIn = [] := by decide

/-- OverlappingCommandsAreRefused. -/
theorem test_witness_overlap : { node with overlap := true }.overlap = true := by decide

/-- CodecCommandsReadNoState: the first and the last codec opcode. -/
theorem test_witness_codec_opcodes :
    0x10 ≤ (opcode (.dtEncode ⟨0x06#8, Quad.zero⟩)).toNat ∧
    0x10 ≤ (opcode (.frameCmp ⟨⟨0x00#8, 0#16⟩, RawMessage.empty⟩ ⟨⟨0x00#8, 1#16⟩, RawMessage.empty⟩)).toNat := by decide

/-- PowerOnContentsReachNoObservation: two different states that differ only in power-on contents. -/
theorem test_witness_power_on_contents :
    let s := { State.reset with cmdIn := [0x01#8, 0x0A#8] }
    let t := { s with nodeId := 0x5A#8, hwRev := 0x01#8, qOvfCnt := 7#32, rq := [nod 300#16] }
    s ≠ t ∧ sameButPowerOnContents s t := by decide

/-- StepKeepsTheQueueInvariant, StepKeepsTheLogsWellShaped: a state with queued, sent and answered things. -/
theorem test_witness_invariants :
    let s := { full with
      txLog := [⟨2031#16, 8#4, ⟨0x0A#8, 0x10#8, 0x00#8, 0x03#8, 0x01#8, 0x02#8, 0x03#8, 0x04#8⟩⟩]
      resp := [[0x00#8, 0x01#8], [0x01#8], [0x05#8]], cmdIn := [0x08#8] }
    s.init = true ∧ Inv s ∧ txLogOk s ∧ (∀ r ∈ s.resp, responseOk r = true) ∧ (after s s.cmdIn).isSome = true := by decide

/-- EachRegisterHasItsWriters: a command that meets every one of its inequalities. -/
theorem test_witness_writers :
    let i := Instr.readStatus
    (∀ n, i ≠ .nodeInit n) ∧ (∀ v, i ≠ .setHwRev v) ∧ (∀ v, i ≠ .setSwRev v) ∧ (∀ v, i ≠ .setConfig v) ∧
      (∀ v, i ≠ .setHdrConfig v) ∧ i ≠ .notifyRx ∧ i ≠ .readMsg ∧ (∀ m, i ≠ .sendMsg m) := by
  refine ⟨nofun, nofun, nofun, nofun, nofun, nofun, nofun, nofun⟩

/-- NodeCommandsFailBeforeNodeInit, the setters' second clause: the first and the last of those opcodes. -/
theorem test_witness_before_nodeInit :
    State.reset.init = false ∧ 0x02 ≤ (opcode (.setHwRev 1#8)).toNat ∧ (opcode Instr.readStatus).toNat ≤ 0x09 := by
  decide

/-- NotifyWithNoFrame. -/
theorem test_witness_no_frame :
    { node with rxIn := [none] }.init = true ∧ pollAnswer { node with rxIn := [none] } = none := by decide

/-- NotifyDiscardsAShortFrame: three data bytes. -/
theorem test_witness_short_frame :
    let rx : RxFrame := ⟨128#16, 3#4, ⟨0x0A#8, 0x00#8, 0x00#8, 0x00#8, 0x00#8, 0x00#8, 0x00#8, 0x00#8⟩⟩
    let s := { node with rxIn := [some rx] }
    s.init = true ∧ pollAnswer s = some rx ∧ rx.dlc.toNat < 4 := by decide

/-- NotifyDiscardsAnInvalidIdentifier: the first such identifier, four data bytes. -/
theorem test_witness_invalid_identifier :
    let rx := rx4 2032#16 0x0A#8 0x00#8 0x00#8 0x00#8
    let s := { node with rxIn := [some rx] }
    s.init = true ∧ pollAnswer s = some rx ∧ 4 ≤ rx.dlc.toNat ∧ 2032 ≤ rx.id.toNat := by decide

/-- NotifyAnswersAnIdentificationRequest, on a full queue. The edges of its identifiers and of its two targets follow. -/
theorem test_witness_identification_request :
    let rx := rx4 2030#16 0x00#8 0x00#8 0x00#8 0x33#8
    let s := { full with rxIn := [some rx] }
    s.init = true ∧ pollAnswer s = some rx ∧ 4 ≤ rx.dlc.toNat ∧ requestIdentifier rx.id.toNat ∧ addressed s rx ∧
      rx.data.b2 = 0x00#8 := by decide

theorem test_witness_request_identifier_edges :
    (∀ id ∈ [128, 198, 2000, 2030], requestIdentifier id) ∧ ∀ id ∈ [127, 129, 199, 200, 1999, 2031, 2032], ¬ requestIdentifier id := by
  decide

theorem test_witness_addressed : addressed node (rx4 128#16 0x0A#8 0x00#8 0x00#8 0x33#8) ∧
    addressed node (rx4 128#16 0x00#8 0x00#8 0x00#8 0x33#8) := by decide

/-- NotifyDiscardsARequestForAnotherNode, IDS and NSS. -/
theorem test_witness_other_node :
    ∀ service ∈ ([0x00#8, 0x01#8] : List Byte),
      let rx := rx4 128#16 0x0F#8 0x00#8 service 0x00#8
      let s := { node with rxIn := [some rx] }
      s.init = true ∧ pollAnswer s = some rx ∧ 4 ≤ rx.dlc.toNat ∧ requestIdentifier rx.id.toNat ∧ ¬ addressed s rx := by
  decide

/-- NotifyQueuesAFrame: room for one frame, a request for this node. A data frame and a reply follow. -/
theorem test_witness_queued_frame :
    let rx := rx4 128#16 0x0A#8 0x00#8 0x01#8 0x00#8
    let s := { full with rq := full.rq.take 9, rxIn := [some rx] }
    s.init = true ∧ pollAnswer s = some rx ∧ forQueue s rx ∧ s.rq.length ≠ 10 ∧ keysAscend s.rq := by decide

theorem test_witness_forQueue : forQueue node (rx4 0#16 0x0A#8 0x00#8 0x00#8 0x00#8) ∧
    forQueue node (rx4 2031#16 0x0F#8 0x00#8 0x00#8 0x00#8) := by decide

/-- NotifyDropsTheIncomingFrameWhenFull, with the counter at its last value. -/
theorem test_witness_full_queue :
    let rx := rx4 5#16 0x01#8 0x00#8 0x00#8 0x00#8
    let s := { full with rxIn := [some rx], qOvfCnt := 0xFFFFFFFF#32 }
    s.init = true ∧ pollAnswer s = some rx ∧ forQueue s rx ∧ s.rq.length = 10 := by decide

/-- SendMsgTransmitsTheMessage, MtClassifyReturnsTheClassOfTheRange, MtIdValidatesTheValue: both edges of each class. -/
theorem test_witness_class_ranges :
    node.init = true ∧
    ∀ p ∈ [(0, 0), (0, 127), (1, 128), (1, 199), (2, 200), (2, 299), (3, 300), (3, 1799), (4, 1800), (4, 1899),
      (5, 1900), (5, 1999), (6, 2000), (6, 2031)], classHolds p.1 p.2 := by decide

/-- SendMsgOutOfRangeTransmitsNothing, and the refused clauses of MT_CLASSIFY and MT_ID: beside the edges. -/
theorem test_witness_out_of_range :
    (∀ p ∈ [(0, 128), (1, 127), (1, 200), (2, 199), (2, 300), (3, 299), (3, 1800), (4, 1799), (4, 1900), (5, 1899),
      (5, 2000), (6, 1999), (6, 2032), (7, 0), (255, 300)], ¬ classHolds p.1 p.2) ∧
    2032 ≤ (2032#16).toNat ∧ 2032 ≤ (65535#16).toNat := by decide

/-- ReadMsgPopsTheHead, both clauses. -/
theorem test_witness_read_msg :
    node.init = true ∧ node.rq = [] ∧ full.init = true ∧ full.rq = nod 300#16 :: full.rq.tail := by decide

/-- ReadStatusReportsCountAndOverflow: a full queue. -/
theorem test_witness_read_status : full.init = true ∧ full.rq.length ≤ 10 := by decide

/-- AnyOrderAdmitsExactlyThePlacesOfTheKey: a queue with two entries of one key; both ends of the range. -/
theorem test_witness_any_order :
    keysAscend [nod 300#16, nod 301#16, nod 301#16, nod 302#16] ∧
    insertIndex .any 0 [nod 300#16, nod 301#16, nod 301#16, nod 302#16] 301#16 = 1 ∧
    insertIndex .any 2 [nod 300#16, nod 301#16, nod 301#16, nod 302#16] 301#16 = 3 := by decide

/-- QueueNonIdsPolicyPushesOtherServices, both clauses. -/
theorem test_witness_service_codes :
    ({ nod 300#16 with raw := { RawMessage.empty with serviceCode := 0x01#8 } } : Frame).raw.serviceCode ≠ 0x00#8 ∧
    (nod 300#16).raw.serviceCode = 0x00#8 := by decide

/-- ReplyIdentifierStaysInTheClass: the last request of each service class. -/
theorem test_witness_request_identifiers :
    classify 198#16 = .valued .nsh 198#16 ∧ (198#16).toNat % 2 = 0 ∧ classify 2030#16 = .valued .nsl 2030#16 ∧
      (2030#16).toNat % 2 = 0 := by decide

/-- CanonicalFormsOfDataTypes: two builds of one value have one canonical form. -/
theorem test_witness_canonical_form :
    (DataType.decode 0x06#8 ⟨0x80#8, 0x00#8, 0x12#8, 0x34#8⟩).canon = (DataType.short 0x8000#16).canon := by decide

/-- WordVariants, CodecRoundTrip: the first and the last undefined tag. -/
theorem test_witness_undefined_tags : (0x21#8 : Byte) ≤ 0x21#8 ∧ (0x21#8 : Byte) ≤ 0xFF#8 := by decide

/-- ClassificationRoundTrip: the edges of its three clauses. -/
theorem test_witness_classification :
    (0#16).toNat ≤ 2031 ∧ (2031#16).toNat ≤ 2031 ∧ 2032 ≤ (2032#16).toNat ∧
      idOf (.valued .nsh 128#16) = some 128#16 := by decide

/-- RawFromBytesParsesTheFrame (three bytes), FramingLaws (four bytes), BuiltRawMessagesAreWellFormed. -/
theorem test_witness_raw_bytes :
    ([0x01#8, 0x02#8, 0x03#8] : List Byte).length < 4 ∧ 4 ≤ ([0x01#8, 0x02#8, 0x03#8, 0x04#8] : List Byte).length ∧
      RawMessage.fromBytes [0x01#8, 0x02#8, 0x03#8, 0x04#8] = some ⟨0x01#8, 0x02#8, 0x03#8, 0x04#8, 0x00#8, Quad.zero⟩ := by
  decide

/-- RawToBytesAndRawEmpty, MsgFromFrameDecodesTheFrame, ConversionLaws: well-formed and ill-formed operands. -/
theorem test_witness_raw_operands :
    rawOk ⟨0x01#8, 0x06#8, 0x03#8, 0x04#8, 0x02#8, ⟨0xAA#8, 0xBB#8, 0x00#8, 0x00#8⟩⟩ ∧ rawOk RawMessage.empty ∧
      ¬ rawOk ⟨0x01#8, 0x06#8, 0x03#8, 0x04#8, 0x01#8, ⟨0xAA#8, 0xBB#8, 0x00#8, 0x00#8⟩⟩ ∧
      ¬ rawOk ⟨0x01#8, 0x06#8, 0x03#8, 0x04#8, 0x05#8, Quad.zero⟩ := by decide

/-- ServiceViewKeepsTheByte: the edges of the enumerated range. -/
theorem test_witness_service_views :
    svcView 0x0F#8 = .known .dss ∧ 0x10 ≤ (0x10#8).toNat ∧ svcView 0x10#8 = .custom 0x10#8 := by decide

end Sys2Proof.Tests
end

section
/-! PROOFS. The scope of the block: a step by what stands on the command port, and where it stops. -/

namespace Sys2Proof.Machine

/-! ## One step, by what the host presents -/

/-- Two commands in flight have no step (R310, U3). -/
theorem step_of_overlap {s : State} (ho : s.overlap = true) : step s = .refused .commandOverlap := by
  simp [step, ho]

/-- With nothing presented the block waits (R21, R302). -/
theorem step_of_idle {s : State} (ho : s.overlap = false) (hd : decode s.cmdIn = .idle) : step s = .next s := by
  simp [step, ho, hd]

/-- A partial command has no step (R320, U4). -/
theorem step_of_partialCommand {s : State} (ho : s.overlap = false) (hd : decode s.cmdIn = .partialCommand) :
    step s = .refused .partialCommand := by
  simp [step, ho, hd]

/-- An illegal opcode completes (R276). -/
theorem step_of_illegalOpcode {s : State} {op : Byte} {rest : List Byte} (ho : s.overlap = false)
    (hd : decode s.cmdIn = .illegalOpcode op rest) : step s = .next (execIllegal rest s) := by
  simp [step, ho, hd]

/-- A whole command is consumed and run (R42). -/
theorem step_of_instr {s : State} {i : Instr} {rest : List Byte} (ho : s.overlap = false)
    (hd : decode s.cmdIn = .instr i rest) : step s = exec i { s with cmdIn := rest } := by
  simp [step, ho, hd]

/-! ## Where a step stops -/

/-- Settles O11: the cases of the port; in the one that runs a command, every meaning completes. -/
theorem onlyTheHostCanStopTheBlock : Obligations.OnlyTheHostCanStopTheBlock := by
  intro s
  obtain ho | ho := Bool.eq_false_or_eq_true s.overlap
  · exact .inr (.inl ⟨step_of_overlap ho, ho⟩)
  · cases hd : decode s.cmdIn with
    | idle => exact .inl ⟨s, step_of_idle ho hd⟩
    | partialCommand => exact .inr (.inr ⟨step_of_partialCommand ho hd, ho, rfl⟩)
    | illegalOpcode op rest => exact .inl ⟨execIllegal rest s, step_of_illegalOpcode ho hd⟩
    | instr i rest =>
      obtain ⟨t, ht⟩ := exec_completes i { s with cmdIn := rest }
      exact .inl ⟨t, (step_of_instr ho hd).trans ht⟩

end Sys2Proof.Machine
end

section
/-! PROOFS. What a step keeps and what it writes: TXLOG, the responses, the polls, the registers and RQ. -/

namespace Sys2Proof.Machine

/-! ## What an effect writes, one piece of state at a time -/

/-- An identifier that passes the validating accessor is one of the seven classes' (R170, R173). -/
theorem idOf_le {mt : MessageType} {k : Half} (h : idOf mt = some k) : k.toNat ≤ 2031 := by
  cases mt with
  | invalid => cases h
  | valued c v =>
    rw [idOf_valued] at h
    split at h
    · next hc =>
      obtain rfl := Option.some.inj h
      simp only [classHolds] at hc
      omega
    · cases h

/-- A receive event writes RQ, Q_OVF_CNT and TXLOG alone (R241). -/
theorem receive_writes (s : State) (rx : RxFrame) :
    ∃ (q : List Frame) (c : Word) (l : List TxFrame),
      (receive s rx).1 = { s with rq := q, qOvfCnt := c, txLog := l } := by
  obtain h | ⟨tx, -, -, h⟩ | ⟨q, -, h⟩ | h := receive_effect s rx
  · exact ⟨_, _, _, h⟩
  · exact ⟨_, _, _, h⟩
  · exact ⟨_, _, _, h⟩
  · exact ⟨_, _, _, h⟩

/-- No effect touches the host's side of the port, and none gives a response of its own. -/
theorem effect_port {i : Instr} {s u : State} (e : Effect i s u) :
    u.cmdIn = s.cmdIn ∧ u.overlap = s.overlap ∧ u.resp = s.resp := by
  cases e with
  | frame rx hi hs h =>
    obtain ⟨q, c, l, hr⟩ := receive_writes (afterPoll s) rx
    subst h
    simp [hr]
  | _ => subst u; simp

/-- TXLOG keeps, or NOTIFY_RX or SEND_MSG in IDLE appends one frame, with dlc 8 and an identifier of one
of the seven classes (R41, R231, R237). -/
theorem effect_txLog {i : Instr} {s u : State} (e : Effect i s u) :
    u.txLog = s.txLog ∨
    ∃ tx : TxFrame, u.txLog = s.txLog ++ [tx] ∧ tx.dlc = 8#4 ∧ tx.id.toNat ≤ 2031 ∧
      s.init = true ∧ (i = .notifyRx ∨ ∃ m, i = .sendMsg m) := by
  cases e with
  | frame rx hi hs h =>
    subst h
    obtain hr | ⟨tx, hdlc, hid, hr⟩ | ⟨q, -, hr⟩ | hr := receive_effect (afterPoll s) rx
    · exact .inl (by simp [hr])
    · exact .inr ⟨tx, by simp [hr], hdlc, hid, hs, .inl hi⟩
    · exact .inl (by simp [hr])
    · exact .inl (by simp [hr])
  | send m k hi hs hk h =>
    subst h
    exact .inr ⟨txFrame k (frameOf m.message).raw, rfl, rfl, idOf_le hk, hs, .inr ⟨m, hi⟩⟩
  | _ => exact .inl (by subst u; rfl)

/-- Nothing but NOTIFY_RX in IDLE polls the driver (R40, R275). -/
theorem effect_polls {i : Instr} {s u : State} (e : Effect i s u) (hn : ¬ (i = .notifyRx ∧ s.init = true)) :
    u.rxIn = s.rxIn ∧ u.polls = s.polls := by
  cases e with
  | poll hi hs h => exact absurd ⟨hi, hs⟩ hn
  | frame rx hi hs h => exact absurd ⟨hi, hs⟩ hn
  | _ => subst u; exact ⟨rfl, rfl⟩

/-- The registers and RQ under a command other than NODE_INIT: each has its own writers (R23). -/
theorem effect_registers {i : Instr} {s u : State} (e : Effect i s u) (hn : ∀ n, i ≠ .nodeInit n) :
    u.init = s.init ∧ u.nodeId = s.nodeId ∧
    ((∀ v, i ≠ .setHwRev v) → u.hwRev = s.hwRev) ∧
    ((∀ v, i ≠ .setSwRev v) → u.swRev = s.swRev) ∧
    ((∀ v, i ≠ .setConfig v) → u.config = s.config) ∧
    ((∀ v, i ≠ .setHdrConfig v) → u.hdrConfig = s.hdrConfig) ∧
    (i ≠ .notifyRx → u.qOvfCnt = s.qOvfCnt ∧ (i ≠ .readMsg → u.rq = s.rq)) := by
  cases e with
  | build n hi h => exact absurd hi (hn n)
  | frame rx hi hs h =>
    obtain ⟨q, c, l, hr⟩ := receive_writes (afterPoll s) rx
    subst h
    simp [hr, hi]
  | none h => subst h; simp
  | _ => subst u i; simp

/-- A queue as R45 asks stays so, and NODE_INIT leaves the empty one (R45). -/
theorem effect_inv {i : Instr} {s u : State} (e : Effect i s u) (hs : Inv s) : Inv u := by
  cases e with
  | frame rx hi hsi h =>
    subst h
    have hq : queueOk (afterPoll s).rq := hs hsi
    intro _
    obtain hr | ⟨tx, -, -, hr⟩ | ⟨q, hkeep, hr⟩ | hr := receive_effect (afterPoll s) rx
    · rwa [hr]
    · rwa [hr]
    · rw [hr]
      exact hkeep hq
    · rwa [hr]
  | pop f q hi hsi hq h =>
    subst h
    intro _
    have hok := hs hsi
    rw [hq] at hok
    obtain ⟨hlen, hasc, hvalid⟩ := hok
    exact ⟨Nat.le_of_succ_le hlen, (List.pairwise_cons.1 hasc).2,
      fun f' hf' => hvalid f' (List.mem_cons_of_mem f hf')⟩
  | build n hi h =>
    subst h
    intro _
    exact ⟨Nat.zero_le _, List.Pairwise.nil, nofun⟩
  | _ => subst u; exact hs

/-! ## Invariants that every step keeps -/

/-- The parts of a step: bytes are consumed, the command has its effect, a well-shaped response is given. A
property that each part keeps is kept by every step. -/
theorem step_keeps {P : State → Prop} (hconsume : ∀ s rest, P s → P { s with cmdIn := rest })
    (heffect : ∀ i s u, Effect i s u → P s → P u) (hrespond : ∀ s r, responseOk r = true → P s → P (respond s r))
    {s t : State} (hs : P s) (h : step s = .next t) : P t := by
  obtain ⟨-, ⟨rfl, -⟩ | ⟨op, rest, -, rfl⟩ | ⟨i, rest, -, he⟩⟩ := step_cases h
  · exact hs
  · exact hrespond _ _ (responseOk_status .illegalCommand) (hconsume s rest hs)
  · obtain ⟨r, u, rfl, hr, e⟩ := exec_effect he
    exact hrespond u r hr (heffect i _ u e (hconsume s rest hs))

/-- Settles O15: the port is no part of the invariant, and every effect keeps it. -/
theorem stepKeepsTheQueueInvariant : Obligations.StepKeepsTheQueueInvariant :=
  fun _ _ => step_keeps (P := Inv) (fun _ _ hs => hs) (fun _ _ _ e => effect_inv e) (fun _ _ _ hs => hs)

/-- What has left the block is well shaped (R41, R83): the frames sent and the responses given. -/
def logsOk (s : State) : Prop := txLogOk s ∧ ∀ r ∈ s.resp, responseOk r = true

/-- Every effect keeps the logs well shaped: the one frame it may send is, and it gives no response. -/
theorem effect_logsOk {i : Instr} {s u : State} (e : Effect i s u) (hs : logsOk s) : logsOk u := by
  obtain ⟨htx, hresp⟩ := hs
  obtain ⟨-, -, hkeep⟩ := effect_port e
  refine ⟨fun tx hmem => ?_, by rwa [hkeep]⟩
  obtain hlog | ⟨new, hlog, hdlc, hid, -⟩ := effect_txLog e
  · exact htx tx (hlog ▸ hmem)
  · obtain hold | rfl : tx ∈ s.txLog ∨ tx = new := by simpa [hlog] using hmem
    · exact htx tx hold
    · exact ⟨hdlc, hid⟩

theorem respond_logsOk {s : State} {r : List Byte} (hr : responseOk r = true) (hs : logsOk s) :
    logsOk (respond s r) := by
  obtain ⟨htx, hresp⟩ := hs
  refine ⟨htx, fun r' hmem => ?_⟩
  obtain hold | rfl : r' ∈ s.resp ∨ r' = r := by simpa using hmem
  · exact hresp r' hold
  · exact hr

/-- Settles O17: effects and well-shaped responses keep the logs well shaped. -/
theorem stepKeepsTheLogsWellShaped : Obligations.StepKeepsTheLogsWellShaped :=
  fun _ _ => step_keeps (P := logsOk) (fun _ _ hs => hs) (fun _ _ _ e => effect_logsOk e)
    (fun _ _ hr => respond_logsOk hr)

/-- Settles O16: reset is before NODE_INIT, and its logs are empty. -/
theorem resetMeetsTheInvariants : Obligations.ResetMeetsTheInvariants :=
  ⟨rfl, rfl, nofun, nofun, nofun⟩

/-! ## What a command writes -/

/-- Settles O18: the response that follows the effect leaves TXLOG. -/
theorem atMostOneFrameIsSentPerCommand : Obligations.AtMostOneFrameIsSentPerCommand := by
  intro i s t h
  obtain ⟨r, u, rfl, -, e⟩ := exec_effect h
  obtain hlog | ⟨tx, hlog, -, -, hs, hi⟩ := effect_txLog e
  · exact .inl hlog
  · exact .inr ⟨⟨tx, hlog⟩, hs, hi⟩

/-- NOTIFY_RX in IDLE takes the driver's next answer, whatever it is (R226, R242). -/
theorem notify_polls {s t : State} (hs : s.init = true) (h : exec .notifyRx s = .next t) :
    t.rxIn = s.rxIn.tail ∧ t.polls = s.polls + 1 := by
  cases hp : pollAnswer s with
  | none =>
    simp only [exec, execNotifyRx, whenInit_of_true hs, hp] at h
    obtain rfl := Host.Outcome.next.inj h
    exact ⟨rfl, rfl⟩
  | some rx =>
    obtain rfl := Host.Outcome.next.inj ((notify_frame hs hp).symm.trans h)
    obtain ⟨q, c, l, hr⟩ := receive_writes (afterPoll s) rx
    rw [hr]
    exact ⟨rfl, rfl⟩

/-- Settles O19: NOTIFY_RX in IDLE, and every other effect. -/
theorem theDriverIsPolledOncePerNotify : Obligations.TheDriverIsPolledOncePerNotify := by
  intro i s t h
  split
  · next hn =>
    obtain ⟨rfl, hs⟩ := hn
    exact notify_polls hs h
  · next hn =>
    obtain ⟨r, u, rfl, -, e⟩ := exec_effect h
    simpa using effect_polls e hn

/-- Settles O20: the writers of the port, of TXLOG, and of the registers and RQ. -/
theorem eachRegisterHasItsWriters : Obligations.EachRegisterHasItsWriters := by
  intro i s t h
  obtain ⟨r, u, rfl, -, e⟩ := exec_effect h
  obtain ⟨hcmd, hover, -⟩ := effect_port e
  refine ⟨⟨hcmd, hover⟩, fun hnotify hsend => ?_, by simpa using effect_registers e⟩
  obtain hlog | ⟨-, -, -, -, -, hi | ⟨m, hi⟩⟩ := effect_txLog e
  · exact hlog
  · exact absurd hi hnotify
  · exact absurd hi (hsend m)

/-- Settles O7: the case of the port that holds a whole command. -/
theorem stepRunsTheDecodedCommand : Obligations.StepRunsTheDecodedCommand :=
  fun _ _ _ ho hd => step_of_instr ho hd

/-- Settles O8: an empty port decodes as idle. -/
theorem emptyPortHoldsTheState : Obligations.EmptyPortHoldsTheState :=
  fun _ ho hempty => step_of_idle ho (by rw [hempty]; rfl)

end Sys2Proof.Machine
end

section
/-! PROOFS. The power-on contents cannot be seen (R44): two runs that differ in them alone end alike. -/

namespace Sys2Proof.Machine

/-- Once INIT is 1 nothing is left unspecified. -/
theorem eq_of_sameButPowerOnContents {s t : State} (h : sameButPowerOnContents s t) (hs : s.init = true) :
    s = t := by
  obtain ⟨harch, hport, hregs⟩ := h
  have hregs := hregs hs
  cases s
  cases t
  simp_all

theorem sameButPowerOnContents.refl (s : State) : sameButPowerOnContents s s :=
  ⟨rfl, rfl, fun _ => ⟨rfl, rfl⟩⟩

theorem sameButPowerOnContents.init_eq {s t : State} (h : sameButPowerOnContents s t) : t.init = s.init :=
  (congrArg Prod.fst h.1).symm

/-- Related states show the host the same port. -/
theorem sameButPowerOnContents.port_eq {s t : State} (h : sameButPowerOnContents s t) :
    t.cmdIn = s.cmdIn ∧ t.overlap = s.overlap := by
  obtain ⟨harch, hport, -⟩ := h
  simp only [Prod.mk.injEq] at harch hport
  obtain ⟨-, -, hcmd, -⟩ := harch
  obtain ⟨-, -, hover⟩ := hport
  exact ⟨hcmd.symm, hover.symm⟩

theorem sameButPowerOnContents.consume {s t : State} (h : sameButPowerOnContents s t) (rest : List Byte) :
    sameButPowerOnContents { s with cmdIn := rest } { t with cmdIn := rest } := by
  obtain ⟨harch, hport, hregs⟩ := h
  refine ⟨?_, hport, hregs⟩
  simp_all

theorem sameButPowerOnContents.respond {s t : State} (h : sameButPowerOnContents s t) (r : List Byte) :
    sameButPowerOnContents (respond s r) (respond t r) := by
  obtain ⟨harch, hport, hregs⟩ := h
  refine ⟨?_, hport, hregs⟩
  simp_all

/-- NODE_INIT builds every register and RQ anew (R221), so it makes related states one. -/
theorem sameButPowerOnContents.nodeInit {s t : State} (h : sameButPowerOnContents s t) (n : Byte) :
    exec (.nodeInit n) s = exec (.nodeInit n) t := by
  obtain ⟨harch, hport, -⟩ := h
  simp_all [exec, execNodeInit, Machine.respond]

/-- A codec command gives one response, which the command alone fixes, and does nothing else (R305). -/
theorem exec_codec (i : Instr) (h : 0x10 ≤ (opcode i).toNat) :
    ∃ r, ∀ s : State, exec i s = .next (respond s r) := by
  cases i with
  | mtId m =>
    cases hk : idOf m.type with
    | none => exact ⟨[0x03#8], fun s => by simp [exec, execMtId, hk, statusCode]⟩
    | some k => exact ⟨0x00#8 :: be16 k, fun s => by simp [exec, execMtId, hk]⟩
  | rawFromBytes b =>
    cases hr : RawMessage.fromBytes b with
    | none => exact ⟨[0x02#8], fun s => by simp [exec, execRawFromBytes, hr, statusCode]⟩
    | some r => exact ⟨0x00#8 :: r.bytes, fun s => by simp [exec, execRawFromBytes, hr]⟩
  | rawToBytes r =>
    by_cases hw : r.wellFormed
    · exact ⟨_, fun s => congrArg Host.Outcome.next (if_pos hw)⟩
    · exact ⟨_, fun s => congrArg Host.Outcome.next (if_neg hw)⟩
  | msgFromFrame f =>
    by_cases hw : f.raw.wellFormed
    · exact ⟨_, fun s => congrArg Host.Outcome.next (if_pos hw)⟩
    · exact ⟨_, fun s => congrArg Host.Outcome.next (if_neg hw)⟩
  | frameCmp f g =>
    by_cases hw : (f.raw.wellFormed && g.raw.wellFormed) = true
    · cases hc : compareFrames f.frame g.frame with
      | none => exact ⟨[0x03#8], fun s => by simp only [exec, execFrameCmp, if_pos hw, hc]; rfl⟩
      | some o => exact ⟨[0x00#8, orderCode o], fun s => by simp only [exec, execFrameCmp, if_pos hw, hc]; rfl⟩
    · exact ⟨_, fun s => congrArg Host.Outcome.next (if_neg hw)⟩
  | dtEncode | dtDecode | dtTypeId | dtLen | mtClassify | rawEmpty | msgToFrame => exact ⟨_, fun _ => rfl⟩
  | _ => simp [opcode] at h

/-- Before NODE_INIT every other command gives one response, which the command alone fixes, and does
nothing else: NOT_INITIALIZED from the node engine (R275), its result from the codec (R305). -/
theorem exec_before_nodeInit (i : Instr) :
    (∃ n, i = .nodeInit n) ∨ ∃ r, ∀ s : State, s.init = false → exec i s = .next (respond s r) := by
  by_cases hc : 0x10 ≤ (opcode i).toNat
  · obtain ⟨r, hr⟩ := exec_codec i hc
    exact .inr ⟨r, fun s _ => hr s⟩
  · cases i with
    | nodeInit n => exact .inl ⟨n, rfl⟩
    | setHwRev | setSwRev | setConfig | setHdrConfig | notifyRx | sendMsg | readMsg | readStatus =>
      exact .inr ⟨_, fun s hs => congrArg Host.Outcome.next (whenInit_of_false hs _)⟩
    | _ => simp [opcode] at hc

/-- A command takes related states to related states. -/
theorem exec_sameButPowerOnContents {s t : State} (h : sameButPowerOnContents s t) (i : Instr) :
    ∃ s' t', exec i s = .next s' ∧ exec i t = .next t' ∧ sameButPowerOnContents s' t' := by
  obtain hs | hs := Bool.eq_false_or_eq_true s.init
  · obtain rfl := eq_of_sameButPowerOnContents h hs
    obtain ⟨s', hs'⟩ := exec_completes i s
    exact ⟨s', s', hs', hs', .refl s'⟩
  · obtain ⟨n, rfl⟩ | ⟨r, hr⟩ := exec_before_nodeInit i
    · obtain ⟨t', ht'⟩ := exec_completes (.nodeInit n) t
      exact ⟨t', t', (h.nodeInit n).trans ht', ht', .refl t'⟩
    · exact ⟨_, _, hr s hs, hr t (h.init_eq.trans hs), h.respond r⟩

/-- A step on related states is refused for one reason, or ends in related states. -/
theorem step_sameButPowerOnContents {s t : State} (h : sameButPowerOnContents s t) :
    (∃ r, step s = .refused r ∧ step t = .refused r) ∨
    ∃ s' t', step s = .next s' ∧ step t = .next t' ∧ sameButPowerOnContents s' t' := by
  obtain ⟨hcmd, hover⟩ := h.port_eq
  obtain ho | ho := Bool.eq_false_or_eq_true s.overlap
  · exact .inl ⟨_, step_of_overlap ho, step_of_overlap (hover.trans ho)⟩
  have ht := hover.trans ho
  cases hd : decode s.cmdIn with
  | idle => exact .inr ⟨s, t, step_of_idle ho hd, step_of_idle ht (hcmd ▸ hd), h⟩
  | partialCommand => exact .inl ⟨_, step_of_partialCommand ho hd, step_of_partialCommand ht (hcmd ▸ hd)⟩
  | illegalOpcode op rest =>
    exact .inr ⟨_, _, step_of_illegalOpcode ho hd, step_of_illegalOpcode ht (hcmd ▸ hd),
      (h.consume rest).respond _⟩
  | instr i rest =>
    rw [step_of_instr ho hd, step_of_instr ht (hcmd ▸ hd)]
    exact .inr (exec_sameButPowerOnContents (h.consume rest) i)

/-- Settles O14, by induction on the number of steps. -/
theorem powerOnContentsReachNoObservation : Obligations.PowerOnContentsReachNoObservation := by
  intro k
  induction k with
  | zero => exact fun s t h => ⟨fun s' hs' => ⟨t, rfl, Host.Outcome.next.inj hs' ▸ h⟩, nofun⟩
  | succ k ih =>
    intro s t h
    obtain ⟨r, hs, ht⟩ | ⟨s', t', hs, ht, h'⟩ := step_sameButPowerOnContents h
    · rw [run_succ_refused hs, run_succ_refused ht]
      exact ⟨nofun, fun _ hr => hr⟩
    · rw [run_succ_next hs, run_succ_next ht]
      exact ih s' t' h'

end Sys2Proof.Machine
end

section
/-! PROOFS. FIFO insertion keeps the frames of one key in arrival order (R34, R235). -/

namespace Sys2Proof.Machine

/-- The entry's key is `k`. -/
abbrev hasKey (k : Half) (e : Frame) : Bool := decide (keyOf e = k)

/-- Behind the place of FIFO insertion every key is greater than the frame's. -/
theorem key_lt_of_mem_drop {q : List Frame} (hq : keysAscend q) {f e : Frame} {choice : Nat}
    (he : e ∈ q.drop (insertIndex .fifo choice q (keyOf f))) : keyOf f < keyOf e := by
  have hdrop := (take_countP hq (le_key_closed (keyOf f))).2
  simp only [insertIndex, hdrop] at he
  have hgt := (List.mem_filter.1 he).2
  simpa using hgt

/-- FIFO insertion puts a frame behind the entries of its own key, and leaves those of every other key. -/
theorem filter_key_insert_fifo {q : List Frame} (hq : keysAscend q) (f : Frame) (choice : Nat) (k : Half) :
    (insertFrame q f (insertIndex .fifo choice q (keyOf f))).filter (hasKey k) =
      q.filter (hasKey k) ++ [f].filter (hasKey k) := by
  have hback : ∀ e ∈ q.drop (insertIndex .fifo choice q (keyOf f)), keyOf f < keyOf e :=
    fun e he => key_lt_of_mem_drop hq he
  rw [insertFrame]
  generalize insertIndex .fifo choice q (keyOf f) = j at hback ⊢
  have hsplit : q.filter (hasKey k) = (q.take j).filter (hasKey k) ++ (q.drop j).filter (hasKey k) := by
    rw [← List.filter_append, List.take_append_drop]
  by_cases hk : keyOf f = k
  · have hnone : (q.drop j).filter (hasKey k) = [] := by
      subst hk
      exact List.filter_eq_nil_iff.2 fun e he => by simpa using (BitVec.ne_of_lt (hback e he)).symm
    simp [hk, hnone, hsplit]
  · simp [hk, hsplit]

theorem queueAfter_concat (arrivals : List Frame) (f : Frame) :
    queueAfter (arrivals ++ [f]) =
      insertFrame (queueAfter arrivals) f (insertIndex .fifo 0 (queueAfter arrivals) (keyOf f)) := by
  simp [queueAfter]

/-- Settles O35, by induction on the arrivals, the last one first. -/
theorem equalKeysStandInArrivalOrder : Obligations.EqualKeysStandInArrivalOrder := by
  intro arrivals
  induction arrivals using List.reverseRecOn with
  | nil => exact ⟨List.Pairwise.nil, List.Perm.refl _, fun _ => rfl⟩
  | append_singleton arrivals f ih =>
    obtain ⟨hasc, hperm, hkey⟩ := ih
    obtain ⟨hlo, hhi⟩ := insertIndex_bounds .fifo 0 (queueAfter arrivals) (keyOf f)
    rw [queueAfter_concat]
    refine ⟨keysAscend_insert hasc f hlo hhi, ?_, fun k => ?_⟩
    · exact (insertFrame_perm _ f _).trans ((hperm.cons f).trans (List.perm_append_singleton f arrivals).symm)
    · rw [filter_key_insert_fifo hasc, hkey, List.filter_append]

end Sys2Proof.Machine
end

section
/-! PROOFS. The encoding (R80 to R82, R93, R95): everything the decoder can find, and that it and the
encoder undo each other. -/

namespace Sys2Proof

open Sys2Proof.Machine

/-! ## The decoder and the encoder undo each other -/

/-- Settles O1: the opcode selects the command's arm, whose reader undoes the operand's bytes. -/
theorem decodeOfEncodeIsTheCommand : Obligations.DecodeOfEncodeIsTheCommand := by
  intro i rest hwf
  cases i with
  | notifyRx | readMsg | readStatus | rawEmpty => rfl
  | nodeInit v | setHwRev v | setSwRev v | setConfig v | setHdrConfig v => rfl
  | dtEncode x | dtDecode x | dtTypeId x | dtLen x => rfl
  | rawToBytes r => rfl
  | mtClassify id => exact congrArg (withOperand .mtClassify) (takeId_bytes id rest)
  | mtId m => exact congrArg (withOperand .mtId) (takeMt_bytes m rest)
  | sendMsg m => exact congrArg (withOperand .sendMsg) (takeMsg_bytes m rest)
  | msgToFrame m => exact congrArg (withOperand .msgToFrame) (takeMsg_bytes m rest)
  | msgFromFrame f => exact congrArg (withOperand .msgFromFrame) (takeFrame_bytes f rest)
  | frameCmp f g =>
    exact congrArg (withOperand fun fs => .frameCmp fs.1 fs.2) (takeFrame2_bytes f g rest)
  | rawFromBytes b =>
    have hlen : b.length ≤ 255 := by simpa [Instr.wellFormed] using hwf
    exact congrArg (withOperand .rawFromBytes) (takeSeq_bytes hlen rest)

/-- What is found in `bs` is a partial command, or a well-formed one that stands at the front of `bs` as
its own encoding. -/
def FindsCommand (bs : List Byte) (d : Decoded) : Prop :=
  d = .partialCommand ∨ ∃ i rest, d = .instr i rest ∧ i.wellFormed = true ∧ bs = encode i ++ rest

/-- The arm of an opcode whose reader undoes the operand's bytes. -/
theorem findsCommand_withOperand {α : Type} {mk : α → Instr} {take : List Byte → Option (α × List Byte)} {op : Byte}
    {bs : List Byte} (hread : ∀ {x rest}, take bs = some (x, rest) →
      (mk x).wellFormed = true ∧ op :: bs = encode (mk x) ++ rest) :
    FindsCommand (op :: bs) (withOperand mk (take bs)) := by
  cases htake : take bs with
  | none => exact .inl rfl
  | some p => exact .inr ⟨mk p.1, p.2, rfl, hread htake⟩

/-- Everything the decoder can find behind an opcode byte (R81, R82, R93). -/
theorem decode_cons (op : Byte) (bs : List Byte) :
    (formatOf op = none ∧ decode (op :: bs) = .illegalOpcode op bs) ∨
    ((formatOf op).isSome = true ∧ FindsCommand (op :: bs) (decode (op :: bs))) := by
  unfold decode
  dsimp only
  split
  case h_22 => exact .inl ⟨by simp only [formatOf], rfl⟩
  all_goals refine .inr ⟨rfl, ?_⟩
  case h_6 | h_8 | h_9 | h_18 => exact .inr ⟨_, bs, rfl, rfl, rfl⟩
  case h_16 =>
    refine findsCommand_withOperand fun {b rest} h => ?_
    obtain ⟨hlen, hbs⟩ := takeSeq_eq h
    exact ⟨decide_eq_true hlen, congrArg _ hbs⟩
  all_goals refine findsCommand_withOperand fun {x rest} h => ⟨rfl, congrArg _ ?_⟩
  case h_1 | h_2 | h_3 | h_4 | h_5 => exact takeImm8_eq h
  case h_7 | h_20 => exact takeMsg_eq h
  case h_10 | h_11 | h_12 | h_13 => exact takeDt_eq h
  case h_14 => exact takeId_eq h
  case h_15 => exact takeMt_eq h
  case h_17 => exact takeRaw_eq h
  case h_19 => exact takeFrame_eq h
  case h_21 => exact takeFrame2_eq h

/-- Settles O2: of what the decoder can find, the case of a whole command. -/
theorem decodedBytesAreTheEncoding : Obligations.DecodedBytesAreTheEncoding := by
  intro bs rest i h
  cases bs with
  | nil => cases h
  | cons op bs =>
    obtain ⟨-, hd⟩ | ⟨-, hd | ⟨j, rest', hd, hwf, hbs⟩⟩ := decode_cons op bs
    · cases hd.symm.trans h
    · cases hd.symm.trans h
    · obtain ⟨rfl, rfl⟩ := Decoded.instr.inj (hd.symm.trans h)
      exact ⟨hwf, hbs⟩

/-! ## The length of a command -/

/-- The encoding's form (R82, R95), for every command at once. -/
theorem encodeForm (i : Instr) : Laws.EncodeForm.Statement i := by
  cases i with
  | nodeInit n => exact Laws.EncodeForm.nodeInit n
  | setHwRev v => exact Laws.EncodeForm.setHwRev v
  | setSwRev v => exact Laws.EncodeForm.setSwRev v
  | setConfig v => exact Laws.EncodeForm.setConfig v
  | setHdrConfig v => exact Laws.EncodeForm.setHdrConfig v
  | notifyRx => exact Laws.EncodeForm.notifyRx
  | sendMsg m => exact Laws.EncodeForm.sendMsg m
  | readMsg => exact Laws.EncodeForm.readMsg
  | readStatus => exact Laws.EncodeForm.readStatus
  | dtEncode x => exact Laws.EncodeForm.dtEncode x
  | dtDecode x => exact Laws.EncodeForm.dtDecode x
  | dtTypeId x => exact Laws.EncodeForm.dtTypeId x
  | dtLen x => exact Laws.EncodeForm.dtLen x
  | mtClassify id => exact Laws.EncodeForm.mtClassify id
  | mtId m => exact Laws.EncodeForm.mtId m
  | rawFromBytes b => exact Laws.EncodeForm.rawFromBytes b
  | rawToBytes r => exact Laws.EncodeForm.rawToBytes r
  | rawEmpty => exact Laws.EncodeForm.rawEmpty
  | msgFromFrame f => exact Laws.EncodeForm.msgFromFrame f
  | msgToFrame m => exact Laws.EncodeForm.msgToFrame m
  | frameCmp f1 f2 => exact Laws.EncodeForm.frameCmp f1 f2

/-- Only F_SEQ reads the byte behind the opcode, and F_SEQ always has one. -/
theorem commandLength_headD_append (i : Instr) (rest : List Byte) :
    commandLength (opcode i) ((operandBytes i ++ rest).headD 0x00#8) =
      commandLength (opcode i) ((operandBytes i).headD 0x00#8) := by
  cases i <;> rfl

/-- A decoded command has consumed the bytes its first two fix, and its opcode is in the map (R95). -/
theorem length_of_decode {op : Byte} {bs rest : List Byte} {i : Instr} (h : decode (op :: bs) = .instr i rest) :
    (formatOf op).isSome = true ∧ (op :: bs).length = rest.length + commandLength op (bs.headD 0x00#8) := by
  obtain ⟨hwf, hbs⟩ := decodedBytesAreTheEncoding _ _ _ h
  obtain ⟨hlegal, hlen⟩ := encodeForm i hwf
  obtain ⟨rfl, rfl⟩ : op = opcode i ∧ bs = operandBytes i ++ rest := List.cons.inj hbs
  refine ⟨hlegal, ?_⟩
  rw [commandLength_headD_append, ← hlen, hbs, List.length_append, Nat.add_comm]

/-- Settles O3: the opcode map's rows, one by one. -/
theorem opcodeFixesTheCommandLength : Obligations.OpcodeFixesTheCommandLength := by
  intro op bs rest i h
  obtain ⟨hlegal, hlen⟩ := length_of_decode h
  rw [hlen]
  generalize bs.headD 0x00#8 = next
  congr 1
  unfold formatOf at hlegal
  split at hlegal
  case h_22 => cases hlegal
  all_goals rfl

/-! ## Illegal opcodes -/

/-- The opcode bytes outside the opcode map (R81), as R93 lists them. -/
theorem formatOf_eq_none_iff (op : Byte) :
    formatOf op = none ↔
      op.toNat = 0x00 ∨ (0x0A ≤ op.toNat ∧ op.toNat ≤ 0x0F) ∨ (0x14 ≤ op.toNat ∧ op.toNat ≤ 0x1F) ∨
        (0x22 ≤ op.toNat ∧ op.toNat ≤ 0x2F) ∨ (0x33 ≤ op.toNat ∧ op.toNat ≤ 0x3F) ∨ 0x43 ≤ op.toNat := by
  unfold formatOf
  split
  case h_22 =>
    refine iff_of_true rfl ?_
    simp only [BitVec.toNat_eq, imp_false, BitVec.toNat_ofNat, Nat.reducePow, Nat.reduceMod] at *
    omega
  all_goals simp

/-- The decoder names exactly the opcodes outside the opcode map (R93). -/
theorem decode_illegalOpcode_iff (op : Byte) (bs : List Byte) :
    decode (op :: bs) = .illegalOpcode op bs ↔ formatOf op = none := by
  obtain ⟨hnone, hd⟩ | ⟨hsome, hfind⟩ := decode_cons op bs
  · exact iff_of_true hd hnone
  · refine iff_of_false (fun hd => ?_) (Option.isSome_iff_ne_none.1 hsome)
    obtain hp | ⟨i, rest, hi, -⟩ := hfind
    · cases hp.symm.trans hd
    · cases hi.symm.trans hd

/-- Settles O4: what the decoder names illegal, and the step on it. -/
theorem illegalOpcodeCompletesAndConsumesOneByte : Obligations.IllegalOpcodeCompletesAndConsumesOneByte := by
  intro op bs illegal
  have hiff : decode (op :: bs) = .illegalOpcode op bs ↔ illegal :=
    (decode_illegalOpcode_iff op bs).trans (formatOf_eq_none_iff op)
  refine ⟨hiff, fun s ho hcmd hill => ?_⟩
  exact step_of_illegalOpcode ho (hcmd ▸ hiff.2 hill)

/-! ## Partial commands -/

/-- No command's encoding is a proper front part of another's: the decoder would find both. -/
theorem decode_front_ne_instr {i j : Instr} {front back rest : List Byte} (hwf : i.wellFormed = true)
    (hsplit : front ++ back = encode i) (hback : back ≠ []) : decode front ≠ .instr j rest := by
  intro hd
  obtain ⟨hwfj, hfront⟩ := decodedBytesAreTheEncoding _ _ _ hd
  have hwhole : encode i ++ [] = encode j ++ (rest ++ back) := by
    rw [List.append_nil, ← hsplit, hfront, List.append_assoc]
  have hboth : Decoded.instr i [] = .instr j (rest ++ back) := by
    rw [← decodeOfEncodeIsTheCommand i [] hwf, hwhole, decodeOfEncodeIsTheCommand j _ hwfj]
  obtain ⟨-, hnil⟩ := Decoded.instr.inj hboth
  exact hback (List.append_eq_nil_iff.1 hnil.symm).2

/-- Settles O9: the front part begins with a legal opcode and holds no whole command. -/
theorem partialCommandHasNoStep : Obligations.PartialCommandHasNoStep := by
  intro s i k hwf hpos hlt ho hcmd
  refine step_of_partialCommand ho (hcmd ▸ ?_)
  obtain ⟨n, rfl⟩ := Nat.exists_eq_succ_of_ne_zero hpos.ne'
  have hback : (encode i).drop (n + 1) ≠ [] := by simpa using hlt
  obtain ⟨hlegal, -⟩ := encodeForm i hwf
  obtain ⟨hnone, -⟩ | ⟨-, hpart | ⟨j, rest, hd, -⟩⟩ := decode_cons (opcode i) ((operandBytes i).take n)
  · exact absurd hnone (Option.isSome_iff_ne_none.1 hlegal)
  · exact hpart
  · exact absurd hd (decode_front_ne_instr hwf (List.take_append_drop (n + 1) (encode i)) hback)

/-! ## The worked encoding -/

/-- SEND_MSG in IDLE, its identifier valid: the framed message is transmitted (R237). -/
theorem exec_sendMsg_of_idOf {m : MsgOperand} {s : State} {k : Half} (hs : s.init = true)
    (hk : idOf m.mt.type = some k) :
    exec (.sendMsg m) s = .next (respond (transmit s (txFrame k (frameOf m.message).raw)) [0x00#8]) := by
  have hk' : idOf m.message.mt = some k := hk
  simp only [exec, execSendMsg, whenInit_of_true hs, hk', completeOk_eq]

/-- Settles O5: 0x012C is an identifier of class NOD. -/
theorem workedEncodingOfSendMsg : Obligations.WorkedEncodingOfSendMsg := by
  refine ⟨rfl, decodeOfEncodeIsTheCommand _ [] rfl, fun s hs => ?_⟩
  exact exec_sendMsg_of_idOf hs (idOf_of_holds (c := .nod) (by simp [classHolds, MsgClass.code]))

/-! ## The view of a service byte -/

/-- Everything the view of a service byte can be (R88, R198). -/
theorem svcView_cases (b : Byte) :
    (b.toNat ≤ 0x0F ∧ ∃ n, svcView b = .known n ∧ svcByte (.known n) = b) ∨
    (0x10 ≤ b.toNat ∧ svcView b = .custom b) := by
  unfold svcView
  split
  case h_17 =>
    refine .inr ⟨?_, rfl⟩
    simp only [BitVec.toNat_eq, imp_false, BitVec.toNat_ofNat, Nat.reducePow, Nat.reduceMod] at *
    omega
  all_goals exact .inl ⟨by simp, _, rfl, rfl⟩

/-- Settles O59: the enumerated codes and the custom ones. -/
theorem serviceViewKeepsTheByte : Obligations.ServiceViewKeepsTheByte := by
  intro b
  obtain ⟨hlow, n, hview, hbyte⟩ | ⟨hhigh, hview⟩ := svcView_cases b
  · exact ⟨hview ▸ hbyte, iff_of_true hlow ⟨n, hview⟩, fun h => by omega⟩
  · exact ⟨by rw [hview]; rfl, iff_of_false (by omega) (by simp [hview]), fun _ => hview⟩

end Sys2Proof
end

section
/-! PROOFS. The DataType codec (40_codec.md): its round trip and canonical form (R113, R114, R116), the rule
of each variant (R119 to R152), and the four commands (R154 to R157). -/

namespace Sys2Proof

open Sys2Proof.Machine

/-! ## The round trip and the canonical form -/

/-- An undefined tag is kept with the slot's 32-bit value (R152). -/
theorem decode_of_undefined {t : Byte} (h : 0x21#8 ≤ t) (d : Quad) :
    DataType.decode t d = .udef t h (u32 d.b0 d.b1 d.b2 d.b3) := dif_pos h

/-- Encoding loses no field of a variant (R116): word fields by `u32_be32`, half fields by `u16_hi8_lo8`. -/
theorem decode_typeId_encode (v : DataType) : DataType.decode v.typeId v.encode = v := by
  cases v with
  | nodata | resvd => rfl
  | error x | float x | long x | ulong x | blong x | memid x | chksum x | doubleh x | doublel x =>
    exact congrArg _ (u32_be32 x)
  | udef t h x => exact (decode_of_undefined h _).trans (congrArg (DataType.udef t h) (u32_be32 x))
  | short x | ushort x | bshort x => exact congrArg _ (u16_hi8_lo8 x)
  | short2 a b | ushort2 a b | bshort2 a b => exact congrArg₂ _ (u16_hi8_lo8 a) (u16_hi8_lo8 b)
  | char | uchar | bchar | achar => rfl
  | char2 | uchar2 | bchar2 | achar2 => rfl
  | char3 | uchar3 | bchar3 | achar3 => rfl
  | char4 | uchar4 | bchar4 | achar4 => rfl

/-- Settles O39: the round trip of every value, and what `encode_decode` says of a slot. -/
theorem codecRoundTrip : Obligations.CodecRoundTrip := by
  refine ⟨decode_typeId_encode, fun t d => ?_, fun t h d => ?_⟩
  · rw [encode_decode]
  · exact ⟨_, decode_of_undefined h d, u32_toNat ..⟩

/-- Decoding gives the canonical form R113 says. -/
theorem canon_decode (t : Byte) (d : Quad) :
    (DataType.decode t d).canon = ⟨t, zeroFrom (tagWidth t.toNat) d⟩ := by
  simp only [DataType.canon, typeId_decode, encode_decode]

/-- The canonical form denotes its value (R91, R116). -/
theorem value_canon (v : DataType) : v.canon.value = v := decode_typeId_encode v

/-- Settles O40: the value is read back from its canonical form, so no two values share one, and a pair in
the image is the canonical form of what it decodes to. -/
theorem canonicalFormsOfDataTypes : Obligations.CanonicalFormsOfDataTypes := by
  refine ⟨fun t d => ⟨typeId_decode t d, canon_decode t d⟩, fun v w h => ?_, fun t c => ⟨?_, fun hc => ?_⟩⟩
  · rw [← value_canon v, h, value_canon w]
  · rintro ⟨v, hv⟩
    obtain rfl : DataType.decode t c = v := by rw [← value_canon v, hv, DtOperand.value]
    exact (DtOperand.mk.inj ((canon_decode t c).symm.trans hv)).2
  · exact ⟨DataType.decode t c, by rw [canon_decode, hc]⟩

/-! ## The variants -/

/-- A variant rule says what its tag reads; what is written back, the length and the type id follow from
the tag's width (R113 to R115). -/
theorem variantRow_of_decode {t : Byte} {w : Nat} {d e : Quad} {v : DataType} (hw : tagWidth t.toNat = w)
    (he : zeroFrom w d = e) (hv : DataType.decode t d = v) : variantRow t w d e v := by
  subst hw he hv
  exact ⟨rfl, encode_decode t d, len_decode t d, typeId_decode t d⟩

/-- Settles O41: the field is the big-endian word of the slot. -/
theorem wordVariants : Obligations.WordVariants := by
  intro d
  have hn := u32_toNat d.b0 d.b1 d.b2 d.b3
  refine ⟨u32 d.b0 d.b1 d.b2 d.b3, hn, hn ▸ word_toInt _, ?_, ?_, ?_, ?_, ?_, ?_, ?_, ?_, ?_, fun t h => ?undefined⟩
  case undefined =>
    have hw : tagWidth t.toNat = 4 := tagWidth_of_undefined (by simpa [BitVec.le_def] using h)
    exact variantRow_of_decode hw rfl (decode_of_undefined h d)
  all_goals exact variantRow_of_decode rfl rfl rfl

/-- Settles O42: the fields are the big-endian half words of the slot's front and of its back. -/
theorem halfVariants : Obligations.HalfVariants := by
  intro d
  have hm := u16_toNat d.b0 d.b1
  have hn := u16_toNat d.b2 d.b3
  refine ⟨u16 d.b0 d.b1, u16 d.b2 d.b3, hm, hm ▸ half_toInt _, hn, hn ▸ half_toInt _, ?_, ?_, ?_, ?_, ?_, ?_⟩
  all_goals exact variantRow_of_decode rfl rfl rfl

/-- Settles O43: each field is a byte of the slot. -/
theorem oneAndTwoByteVariants : Obligations.OneAndTwoByteVariants := by
  intro d
  refine ⟨byte_toInt, ?_, ?_, ?_, ?_, ?_, ?_, ?_, ?_⟩
  all_goals exact variantRow_of_decode rfl rfl rfl

/-- Settles O44: each field is a byte of the slot. -/
theorem threeAndFourByteVariants : Obligations.ThreeAndFourByteVariants := by
  intro d
  refine ⟨byte_toInt, ?_, ?_, ?_, ?_, ?_, ?_, ?_, ?_⟩
  all_goals exact variantRow_of_decode rfl rfl rfl

/-- Settles O45: a tag of width 0 clears the whole slot. -/
theorem variantsWithoutData : Obligations.VariantsWithoutData :=
  fun _ => ⟨variantRow_of_decode rfl rfl rfl, variantRow_of_decode rfl rfl rfl⟩

/-! ## The commands -/

/-- DT_ENCODE answers the canonical form of its operand's value (R154). -/
theorem exec_dtEncode (x : DtOperand) (s : State) :
    exec (.dtEncode x) s = .next (respond s (0x00#8 :: x.value.canon.bytes)) := by
  simp only [exec, execDtEncode, completeOk_eq, DataType.canon, DtOperand.bytes]

/-- DT_DECODE answers the same as DT_ENCODE (R155). -/
theorem exec_dtDecode (x : DtOperand) (s : State) :
    exec (.dtDecode x) s = .next (respond s (0x00#8 :: x.value.canon.bytes)) := by
  simp only [exec, execDtDecode, completeOk_eq, DtOperand.value]

/-- DT_TYPE_ID answers the type id of the value (R156). -/
theorem exec_dtTypeId (x : DtOperand) (s : State) :
    exec (.dtTypeId x) s = .next (respond s [0x00#8, x.value.typeId]) := by
  simp only [exec, execDtTypeId, completeOk_eq]

/-- DT_LEN answers the length of the value (R157). -/
theorem exec_dtLen (x : DtOperand) (s : State) :
    exec (.dtLen x) s = .next (respond s [0x00#8, BitVec.ofNat 8 x.value.len]) := by
  simp only [exec, execDtLen, completeOk_eq]

/-- Settles O46: both commands answer the canonical form of the operand's value, as `canon_decode` gives it. -/
theorem dtEncodeAndDtDecodeReturnTheCanonicalForm : Obligations.DtEncodeAndDtDecodeReturnTheCanonicalForm := by
  intro x s
  rw [exec_dtEncode, exec_dtDecode, DtOperand.value, canon_decode]
  exact ⟨rfl, rfl⟩

/-- Settles O47: the type id and the length of a decoded value depend on the tag alone. -/
theorem dtTypeIdAndDtLenAreProjections : Obligations.DtTypeIdAndDtLenAreProjections := by
  intro x s
  rw [exec_dtTypeId, exec_dtLen, DtOperand.value, typeId_decode, len_decode]
  exact ⟨rfl, rfl⟩

/-! ## Sample words -/

/-- Bytes decode to a command when they are its encoding and what follows it (R80). -/
theorem decode_of_encode_append {i : Instr} {rest bs : List Byte} (hbs : encode i ++ rest = bs)
    (hwf : i.wellFormed = true) : decode bs = .instr i rest :=
  hbs ▸ decodeOfEncodeIsTheCommand i rest hwf

/-- Settles O6: each word is the encoding of its command, NOTIFY_RX's with one byte behind it. -/
theorem sampleCommandsDecode : Obligations.SampleCommandsDecode := by
  refine ⟨?_, ?_, ?_, ?_, ?_, ?_, ?_, ?_⟩
  all_goals exact decode_of_encode_append rfl rfl

end Sys2Proof
end

section
/-! PROOFS. The MessageType classifier (R170 to R179): the ranges are disjoint, so an identifier has one class
and classifying inverts the accessor; the two commands; request and reply identifiers. -/

namespace Sys2Proof

open Sys2Proof.Machine

/-! ## An identifier has one class -/

/-- The validating accessor answers for a value in its class's range, and answers that value (R173). -/
theorem idOf_eq_some_iff {mt : MessageType} {v : Half} :
    idOf mt = some v ↔ ∃ c : MsgClass, mt = .valued c v ∧ classHolds c.code.toNat v.toNat := by
  constructor
  · intro h
    cases mt with
    | invalid => cases h
    | valued c w =>
      rw [idOf_valued, Option.ite_none_right_eq_some] at h
      obtain ⟨hc, hv⟩ := h
      obtain rfl := Option.some.inj hv
      exact ⟨c, rfl, hc⟩
  · rintro ⟨c, rfl, hc⟩
    exact idOf_of_holds hc

/-- A MessageType is read back from the port as it was written (R89). -/
theorem type_operand (mt : MessageType) : mt.operand.type = mt := by
  cases mt with
  | invalid => rfl
  | valued c v => cases c <;> rfl

/-- The codes of the classes differ (R89). -/
theorem code_injective : Function.Injective MsgClass.code := by
  intro c d h
  have htype : MessageType.valued c 0#16 = .valued d 0#16 := by
    rw [← type_operand (.valued c _), ← type_operand (.valued d _), MessageType.operand, MessageType.operand, h]
  exact (MessageType.valued.inj htype).1

/-- The ranges of R170 are disjoint (R175). -/
theorem class_unique {c d : MsgClass} {v : Nat} (hc : classHolds c.code.toNat v) (hd : classHolds d.code.toNat v) :
    c = d := by
  refine code_injective (BitVec.eq_of_toNat_eq ?_)
  simp only [classHolds] at hc hd
  omega

/-- The accessor inverts classifying, up to the last identifier of a class (R170, R175). -/
theorem idOf_classify_of_le {id : Half} (h : id.toNat ≤ 2031) : idOf (classify id) = some id := by
  apply idOf_classify
  rw [Ne, classify_invalid_iff]
  omega

/-- Classifying inverts the validating accessor: the class `classify` finds and the MessageType's own both
hold the identifier. -/
theorem classify_of_idOf {mt : MessageType} {v : Half} (h : idOf mt = some v) : classify v = mt := by
  obtain ⟨d, hclass, hd⟩ := idOf_eq_some_iff.1 (idOf_classify_of_le (idOf_le h))
  obtain ⟨c, rfl, hc⟩ := idOf_eq_some_iff.1 h
  rw [hclass, class_unique hc hd]

/-- An identifier is classified under the class whose range holds it (R171). -/
theorem classify_eq_valued_iff {c : MsgClass} {v : Half} :
    classify v = .valued c v ↔ classHolds c.code.toNat v.toNat := by
  constructor
  · intro h
    have hid : idOf (.valued c v) = some v := h ▸ idOf_classify (by simp [h])
    obtain ⟨d, hd, hholds⟩ := idOf_eq_some_iff.1 hid
    obtain ⟨rfl, -⟩ := MessageType.valued.inj hd
    exact hholds
  · exact fun h => classify_of_idOf (idOf_of_holds h)

/-- Settles O50: the valid identifiers, the others, and the accessor inverted. -/
theorem classificationRoundTrip : Obligations.ClassificationRoundTrip :=
  ⟨fun _ => idOf_classify_of_le, fun id => (classify_invalid_iff id).2, fun _ _ => classify_of_idOf⟩

/-! ## The commands -/

/-- MT_CLASSIFY answers the classified MessageType as it is written on the port (R176). -/
theorem exec_mtClassify (id : Half) (s : State) :
    exec (.mtClassify id) s = .next (respond s (0x00#8 :: (classify id).operand.bytes)) := by
  simp only [exec, execMtClassify, completeOk_eq]

/-- MT_ID answers OUT_OF_RANGE or the identifier, by the accessor (R177). -/
theorem exec_mtId (m : MtOperand) (s : State) :
    exec (.mtId m) s = .next (respond s ((idOf m.type).elim [0x03#8] fun v => 0x00#8 :: be16 v)) := by
  cases hid : idOf m.type with
  | none => simp only [exec, execMtId, hid, raise_eq, statusCode, Option.elim_none]
  | some v => simp only [exec, execMtId, hid, completeOk_eq, Option.elim_some]

/-- Settles O48: an identifier its class byte's range holds is classified as what the two denote together, and
comes back on the port as they were. -/
theorem mtClassifyReturnsTheClassOfTheRange : Obligations.MtClassifyReturnsTheClassOfTheRange := by
  intro id s
  rw [exec_mtClassify]
  refine ⟨fun cls hcls => ?_, fun hid => ?_⟩
  · have hclass : classify id = (⟨cls, id⟩ : MtOperand).type :=
      classify_of_idOf ((idOf_type ⟨cls, id⟩).trans (if_pos hcls))
    have hcode : cls.toNat ≤ 6 := by
      simp only [classHolds] at hcls
      omega
    rw [hclass, echo_type, mtEcho, if_pos hcode]
    rfl
  · rw [(classify_invalid_iff id).2 hid]
    rfl

/-- Settles O49: the two answers of the accessor. -/
theorem mtIdValidatesTheValue : Obligations.MtIdValidatesTheValue := by
  intro m s
  rw [exec_mtId, idOf_type]
  refine ⟨fun hm => ?_, fun hm => ?_⟩
  · rw [if_pos hm]
    rfl
  · rw [if_neg hm]
    rfl

/-! ## Request and reply identifiers -/

/-- The reply identifier is one above the request's where the addition does not wrap (R179). -/
theorem replyId_toNat {r : Half} (h : r.toNat ≤ 2031) : (replyId r).toNat = r.toNat + 1 := by
  rw [replyId, BitVec.toNat_add, BitVec.toNat_ofNat]
  omega

/-- The identifiers a service class holds (R170, R178). -/
theorem service_holds_iff {c : MsgClass} (hservice : c = .nsh ∨ c = .nsl) (v : Nat) :
    classHolds c.code.toNat v ↔ c.lo.toNat ≤ v ∧ v ≤ c.hi.toNat := by
  obtain rfl | rfl := hservice <;> simp [classHolds, MsgClass.code, MsgClass.lo, MsgClass.hi]

/-- The bounds of a service class: it begins at an even identifier and ends at an odd one, below 2032 (R170). -/
theorem service_bounds {c : MsgClass} (hservice : c = .nsh ∨ c = .nsl) :
    c.lo.toNat % 2 = 0 ∧ c.hi.toNat % 2 = 1 ∧ c.hi.toNat ≤ 2031 := by
  obtain rfl | rfl := hservice <;> decide

/-- A request identifier is that of its own channel (R178). -/
theorem requestId_channelOf {c : MsgClass} {r : Half} (hlo : c.lo.toNat ≤ r.toNat)
    (heven : (r.toNat - c.lo.toNat) % 2 = 0) : requestId c (channelOf c r) = r := by
  apply BitVec.eq_of_toNat_eq
  rw [requestId, channelOf, BitVec.toNat_add, BitVec.toNat_ofNat]
  omega

/-- Settles O38: a service class ends at an odd identifier, so an even one in it is not its last. -/
theorem replyIdentifierStaysInTheClass : Obligations.ReplyIdentifierStaysInTheClass := by
  intro c r hservice hclass heven
  obtain ⟨hlo, hhi⟩ := (service_holds_iff hservice _).1 (classify_eq_valued_iff.1 hclass)
  obtain ⟨hfirst, hlast, hmax⟩ := service_bounds hservice
  have hreply : (replyId r).toNat = r.toNat + 1 := replyId_toNat (by omega)
  refine ⟨hreply, classify_eq_valued_iff.2 ?_, ?_⟩
  · rw [service_holds_iff hservice, hreply]
    omega
  · rw [requestId_channelOf hlo (by omega), replyId]

end Sys2Proof
end

section
/-! PROOFS. Framing and conversions (42_framing.md): parsing and wire bytes undo each other up to plen (R195),
the conversions up to the tag's width (R203), what the block builds is well formed (R191), and the six commands
(R205 to R210). -/

namespace Sys2Proof

open Sys2Proof.Machine

/-! ## Parsing and wire bytes -/

/-- Padding to a length before cutting there is cutting and then filling up. -/
theorem take_append_replicate {α : Type} (p : List α) (n : Nat) (a : α) :
    (p ++ List.replicate n a).take n = p.take n ++ List.replicate (n - p.length) a := by
  rw [List.take_append, List.take_replicate, Nat.min_eq_left (Nat.sub_le ..)]

/-- A payload slot is its four bytes. -/
theorem quad_toList_injective : Function.Injective Quad.toList := by
  rintro ⟨⟩ ⟨⟩ h
  simpa using h

/-- The wire bytes are the header and the payload slot, without plen (R193). -/
theorem toBytes_toList (r : RawMessage) :
    r.toBytes.toList = r.nodeId :: r.typeTag :: r.serviceCode :: r.messageCode :: r.payload.toList := rfl

/-- Encoding what was parsed gives the first eight bytes, zeros in place of the missing ones (R195). -/
theorem toBytes_of_fromBytes {b : List Byte} {r : RawMessage} (h : RawMessage.fromBytes b = some r) :
    r.toBytes.toList = b.take 8 ++ List.replicate (8 - b.length) 0x00#8 := by
  obtain hshort | ⟨n, t, v, c, p, rfl⟩ := header_cases b
  · rw [fromBytes_short hshort] at h
    cases h
  · obtain ⟨q, hparse, hq⟩ := fromBytes_cons n t v c p
    obtain rfl := Option.some.inj (hparse.symm.trans h)
    have hlength : 8 - (n :: t :: v :: c :: p).length = 4 - p.length := by
      simp only [List.length_cons]
      omega
    rw [toBytes_toList, hq, hlength]
    exact congrArg ([n, t, v, c] ++ ·) (take_append_replicate p 4 0x00#8)

/-- Parsing wire bytes gives the RawMessage they came from, but plen is 4 (R195). -/
theorem fromBytes_toBytes (r : RawMessage) : RawMessage.fromBytes r.toBytes.toList = some { r with plen := 4#8 } := by
  obtain ⟨q, hparse, hq⟩ := fromBytes_cons r.nodeId r.typeTag r.serviceCode r.messageCode r.payload.toList
  obtain rfl : q = r.payload := quad_toList_injective hq
  exact hparse

/-- Settles O56: at least four bytes parse, and the two laws. -/
theorem framingLaws : Obligations.FramingLaws := by
  refine ⟨fun b hb => ?_, fromBytes_toBytes, fun _ _ => rfl⟩
  obtain hshort | ⟨n, t, v, c, p, rfl⟩ := header_cases b
  · omega
  · obtain ⟨q, hparse, -⟩ := fromBytes_cons n t v c p
    exact ⟨_, hparse, toBytes_of_fromBytes hparse⟩

/-! ## Well-formedness of what the block builds -/

/-- A RawMessage whose whole slot counts as payload is well formed, whatever its bytes (R191). -/
theorem rawOk_of_plen_eq {r : RawMessage} (h : r.plen.toNat = 4) : rawOk r :=
  ⟨h.le, fun i hi hplen => by omega⟩

/-- Settles O57: only the empty RawMessage is evaluated; the identification reply fills its slot (R232). -/
theorem builtRawMessagesAreWellFormed : Obligations.BuiltRawMessagesAreWellFormed :=
  ⟨fun _ _ => rawOk_of_fromBytes, (wellFormed_iff _).1 rfl, rawOk_frameOf, fun _ _ => rawOk_of_plen_eq rfl⟩

/-! ## Conversions -/

/-- A message is read back from its frame, since its data is read back from tag and slot (R116, R203). -/
theorem messageOf_frameOf (m : Message) : messageOf (frameOf m) = m := by
  simp only [messageOf, frameOf, decode_typeId_encode]

/-- A frame converted to a message and back (R203): plen and the payload are those of the tag. -/
theorem frameOf_messageOf (f : Frame) :
    frameOf (messageOf f) = { f with raw := { f.raw with
      plen := BitVec.ofNat 8 (tagWidth f.raw.typeTag.toNat)
      payload := zeroFrom (tagWidth f.raw.typeTag.toNat) f.raw.payload } } := by
  simp only [frameOf, messageOf, typeId_decode, encode_decode, len_decode]

/-- A tag's width fits the plen byte. -/
theorem ofNat_tagWidth_eq_iff (t : Nat) (l : Byte) : BitVec.ofNat 8 (tagWidth t) = l ↔ l.toNat = tagWidth t := by
  have hwidth := tagWidth_le t
  rw [BitVec.toNat_eq, BitVec.toNat_ofNat, Nat.mod_eq_of_lt (by omega), eq_comm]

/-- A frame survives the conversions exactly where its plen and payload are already those of its tag (R203). -/
theorem frameOf_messageOf_eq_iff (f : Frame) :
    frameOf (messageOf f) = f ↔
      zeroFrom (tagWidth f.raw.typeTag.toNat) f.raw.payload = f.raw.payload ∧
      f.raw.plen.toNat = tagWidth f.raw.typeTag.toNat := by
  rw [frameOf_messageOf, ← ofNat_tagWidth_eq_iff]
  obtain ⟨mt, n, t, v, c, l, q⟩ := f
  simp [and_comm]

/-- Settles O58: the two round trips; neither needs the frame to be well formed. -/
theorem conversionLaws : Obligations.ConversionLaws := by
  refine ⟨messageOf_frameOf, fun f _ => ⟨frameOf_messageOf f, ?_⟩⟩
  rw [len_decode]
  exact frameOf_messageOf_eq_iff f

/-! ## What a conversion or a comparison makes of an operand -/

/-- The bytes of the message of a frame operand (R83, R199): tag and payload in canonical form. -/
theorem messageOf_bytes (f : FrameOperand) :
    (messageOf f.frame).operand.bytes = mtEcho f.mt ++
      [f.raw.nodeId, f.raw.serviceCode, f.raw.messageCode, f.raw.typeTag] ++
      (zeroFrom (tagWidth f.raw.typeTag.toNat) f.raw.payload).toList := by
  simp only [messageOf, FrameOperand.frame, Message.operand, MsgOperand.bytes, echo_type, canon_decode, DtOperand.bytes,
    List.append_assoc, List.cons_append, List.nil_append]

/-- The bytes of the frame of a message operand (R83, R200): plen is the tag's width. -/
theorem frameOf_bytes (m : MsgOperand) :
    (frameOf m.message).operand.bytes = mtEcho m.mt ++
      [m.nodeId, m.data.tag, m.serviceCode, m.messageCode, BitVec.ofNat 8 (tagWidth m.data.tag.toNat)] ++
      (zeroFrom (tagWidth m.data.tag.toNat) m.data.d).toList := by
  simp only [frameOf, MsgOperand.message, Frame.operand, FrameOperand.bytes, RawMessage.bytes, echo_type,
    DtOperand.value, typeId_decode, encode_decode, len_decode, List.append_assoc, List.cons_append, List.nil_append]

/-- The order of two frame operands (R204): by their values, where both are in their class's range. -/
theorem compareFrames_operands (f g : FrameOperand) :
    compareFrames f.frame g.frame =
      if classHolds f.mt.cls.toNat f.mt.value.toNat ∧ classHolds g.mt.cls.toNat g.mt.value.toNat then
        some (if f.mt.value.toNat < g.mt.value.toNat then .lt
          else if f.mt.value.toNat = g.mt.value.toNat then .eq else .gt)
      else none := by
  rw [compareFrames, FrameOperand.frame, FrameOperand.frame, idOf_type, idOf_type]
  by_cases hf : classHolds f.mt.cls.toNat f.mt.value.toNat
  · by_cases hg : classHolds g.mt.cls.toNat g.mt.value.toNat
    · rw [if_pos hf, if_pos hg, if_pos ⟨hf, hg⟩]
      simp only [BitVec.lt_def, BitVec.toNat_eq]
    · rw [if_pos hf, if_neg hg, if_neg (mt And.right hg)]
  · rw [if_neg hf, if_neg (mt And.left hf)]

/-! ## The commands -/

/-- RAW_FROM_BYTES answers the parsed RawMessage, or MALFORMED_FRAME where nothing parses (R205). -/
theorem exec_rawFromBytes (b : List Byte) (s : State) :
    exec (.rawFromBytes b) s =
      .next (respond s ((RawMessage.fromBytes b).elim [0x02#8] fun r => 0x00#8 :: r.bytes)) := by
  cases hr : RawMessage.fromBytes b with
  | none => simp only [exec, execRawFromBytes, hr, raise_eq, statusCode, Option.elim_none]
  | some r => simp only [exec, execRawFromBytes, hr, completeOk_eq, Option.elim_some]

/-- A command that first checks its RAW operands (R92) gives its response or answers MALFORMED_FRAME. -/
theorem respond_of_check {check : Bool} {ok : Prop} [Decidable ok] (h : check = true ↔ ok) (s : State)
    (r : List Byte) :
    (if check then respond s r else raise s .malformedFrame) = respond s (if ok then r else [0x02#8]) := by
  simp only [h, raise_eq, statusCode, apply_ite (respond s)]

/-- RAW_TO_BYTES answers the wire bytes of a well-formed operand (R206). -/
theorem exec_rawToBytes (r : RawMessage) (s : State) :
    exec (.rawToBytes r) s = .next (respond s (if rawOk r then 0x00#8 :: r.toBytes.toList else [0x02#8])) := by
  rw [← respond_of_check (wellFormed_iff _)]
  rfl

/-- RAW_EMPTY answers the empty RawMessage (R207). -/
theorem exec_rawEmpty (s : State) : exec .rawEmpty s = .next (respond s (0x00#8 :: RawMessage.empty.bytes)) := by
  simp only [exec, execRawEmpty, completeOk_eq]

/-- MSG_FROM_FRAME answers the message of a well-formed frame (R208). -/
theorem exec_msgFromFrame (f : FrameOperand) (s : State) :
    exec (.msgFromFrame f) s =
      .next (respond s (if rawOk f.raw then 0x00#8 :: (messageOf f.frame).operand.bytes else [0x02#8])) := by
  rw [← respond_of_check (wellFormed_iff _)]
  rfl

/-- MSG_TO_FRAME answers the frame of the message (R209). -/
theorem exec_msgToFrame (m : MsgOperand) (s : State) :
    exec (.msgToFrame m) s = .next (respond s (0x00#8 :: (frameOf m.message).operand.bytes)) := by
  simp only [exec, execMsgToFrame, completeOk_eq]

/-- FRAME_CMP checks both RAW operands before it compares (R210, R279). -/
theorem exec_frameCmp (f g : FrameOperand) (s : State) :
    exec (.frameCmp f g) s = .next (respond s
      (if rawOk f.raw ∧ rawOk g.raw then
        (compareFrames f.frame g.frame).elim [0x03#8] fun o => [0x00#8, orderCode o]
      else [0x02#8])) := by
  have hcheck : (f.raw.wellFormed && g.raw.wellFormed) = true ↔ rawOk f.raw ∧ rawOk g.raw := by
    rw [Bool.and_eq_true, wellFormed_iff, wellFormed_iff]
  rw [← respond_of_check hcheck]
  cases ho : compareFrames f.frame g.frame with
  | none => simp only [exec, execFrameCmp, ho, raise_eq, statusCode, Option.elim_none]
  | some o => simp only [exec, execFrameCmp, ho, completeOk_eq, Option.elim_some]

/-- Settles O51: too short to parse, or a header and a payload. -/
theorem rawFromBytesParsesTheFrame : Obligations.RawFromBytesParsesTheFrame := by
  refine fun s => ⟨fun b hb => ?_, fun n t v c p => ?_⟩
  · rw [exec_rawFromBytes, fromBytes_short hb]
    rfl
  · obtain ⟨q, hparse, hq⟩ := fromBytes_cons n t v c p
    rw [exec_rawFromBytes, hparse, ← hq]
    rfl

/-- Settles O53: the two answers of the check; the bytes are `messageOf_bytes`. -/
theorem msgFromFrameDecodesTheFrame : Obligations.MsgFromFrameDecodesTheFrame := by
  intro f s
  rw [exec_msgFromFrame]
  refine ⟨fun hok => ?_, fun hbad => ?_⟩
  · rw [if_pos hok, messageOf_bytes]
    rfl
  · rw [if_neg hbad]
    rfl

/-- Settles O55: the three tests in their order, on values that compare as numbers. -/
theorem frameCmpOrdersByIdentifier : Obligations.FrameCmpOrdersByIdentifier := by
  intro f g s
  rw [exec_frameCmp, compareFrames_operands]
  refine congrArg (fun r => Host.Outcome.next (respond s r)) ?_
  by_cases hok : rawOk f.raw ∧ rawOk g.raw
  · rw [if_pos hok, if_neg (not_not.2 hok)]
    by_cases hrange : classHolds f.mt.cls.toNat f.mt.value.toNat ∧ classHolds g.mt.cls.toNat g.mt.value.toNat
    · rw [if_pos hrange, if_neg (not_not.2 hrange), Option.elim_some]
      split_ifs <;> rfl
    · rw [if_neg hrange, if_pos hrange, Option.elim_none]
  · rw [if_neg hok, if_pos hok]

/-- Settles O52: the two answers of RAW_TO_BYTES's check, and the bytes of the empty RawMessage. -/
theorem rawToBytesAndRawEmpty : Obligations.RawToBytesAndRawEmpty := by
  intro r s
  rw [exec_rawToBytes]
  refine ⟨fun hok => ?_, fun hbad => ?_, exec_rawEmpty s⟩
  · rw [if_pos hok]
    rfl
  · rw [if_neg hbad]
    rfl

/-- Settles O54: the bytes of the operand's frame. -/
theorem msgToFrameEncodesTheMessage : Obligations.MsgToFrameEncodesTheMessage := by
  intro m s
  rw [exec_msgToFrame, frameOf_bytes]
  rfl

end Sys2Proof
end

section
/-! PROOFS. The node engine (43_node_engine.md): a receive event by its disposition steps (R226 to R236), and
the node-engine commands, each by the state it ends in (R221 to R240). -/

namespace Sys2Proof

open Sys2Proof.Machine

/-! ## The receive queue -/

/-- A queue with room takes the frame at its FIFO place (R235). -/
theorem push_of_room {s : State} (hroom : s.rq.length ≠ 10) (hasc : keysAscend s.rq) (f : Frame) :
    push s f = ({ s with rq := queueWith s.rq f }, .queued) := by
  obtain ⟨hfull, -⟩ | ⟨-, choice, hpush⟩ := push_cases s f
  · exact absurd hfull hroom
  · rw [hpush, insert_fifo hasc]

/-- A full queue takes no frame; the frame is counted (R236). -/
theorem push_of_full {s : State} (hfull : s.rq.length = 10) (f : Frame) :
    push s f = ({ s with qOvfCnt := s.qOvfCnt + 1#32 }, .droppedQueueFull) := by
  obtain ⟨-, hpush⟩ | ⟨hroom, -⟩ := push_cases s f
  · exact hpush
  · exact absurd hfull hroom

/-- The free choice reaches every place between the bounds: the one that lies `choice` behind the first. -/
theorem insertIndex_any_sub {q : List Frame} {k : Half} {j : Nat}
    (hlo : q.countP (fun e => decide (keyOf e < k)) ≤ j) (hhi : j ≤ q.countP (fun e => decide (keyOf e ≤ k))) :
    insertIndex .any (j - q.countP (fun e => decide (keyOf e < k))) q k = j := by
  simp only [insertIndex]
  rw [Nat.mod_eq_of_lt (by omega), Nat.add_sub_of_le hlo]

/-- Settles O36: `insertIndex_bounds` and its converse; the bounds alone keep the order. -/
theorem anyOrderAdmitsExactlyThePlacesOfTheKey : Obligations.AnyOrderAdmitsExactlyThePlacesOfTheKey := by
  intro q f j hasc
  rw [← List.countP_eq_length_filter, ← List.countP_eq_length_filter]
  refine ⟨⟨?_, fun ⟨hlo, hhi⟩ => ⟨_, insertIndex_any_sub hlo hhi⟩⟩, fun choice => ?_⟩
  · rintro ⟨choice, rfl⟩
    exact insertIndex_bounds .any choice q (keyOf f)
  · obtain ⟨hlo, hhi⟩ := insertIndex_bounds .any choice q (keyOf f)
    exact keysAscend_insert hasc f hlo hhi

/-- Settles O37: the two arms of the alternative policy. -/
theorem queueNonIdsPolicyPushesOtherServices : Obligations.QueueNonIdsPolicyPushesOtherServices :=
  fun _ _ => ⟨fun hother => if_neg hother, fun hids => if_pos hids⟩

/-! ## A receive event -/

/-- A request identifier is a valid one (R178). -/
theorem requestIdentifier_le {id : Nat} (h : requestIdentifier id) : id ≤ 2031 := by
  simp only [requestIdentifier] at h
  omega

/-- The disposition steps as the block takes them (R280): the first test that holds decides. -/
theorem receive_eq (s : State) (rx : RxFrame) :
    receive s rx =
      if rx.dlc.toNat < 4 then (s, .discardedMalformed)
      else if 2032 ≤ rx.id.toNat then (s, .discardedInvalidId)
      else if requestIdentifier rx.id.toNat ∧ ¬ addressed s rx then (s, .discardedOtherNode)
      else if requestIdentifier rx.id.toNat ∧ rx.data.b2 = 0x00#8 then
        (transmit s ⟨rx.id + 1#16, 8#4,
          ⟨s.nodeId, 0x10#8, 0x00#8, rx.data.b3, s.hwRev, s.swRev, s.config, s.hdrConfig⟩⟩, .answeredIds)
      else push s (receivedFrame rx) := by
  obtain ⟨hshort, h⟩ | ⟨h4, hid, h⟩ | ⟨h4, hreq, haddr, hids, h⟩ | ⟨h4, hreq, haddr, h⟩ | ⟨⟨h4, hid, hserved⟩, h⟩ :=
    receive_cases s rx
  · rw [h, if_pos hshort]
  · rw [h, if_neg (by omega), if_pos hid]
  · have hvalid := requestIdentifier_le hreq
    rw [h, if_neg (by omega), if_neg (by omega), if_neg fun ⟨_, hother⟩ => hother haddr, if_pos ⟨hreq, hids⟩]
  · have hvalid := requestIdentifier_le hreq
    rw [h, if_neg (by omega), if_neg (by omega), if_pos ⟨hreq, haddr⟩]
  · rw [h, if_neg (by omega), if_neg (by omega), if_neg fun ⟨hreq, hother⟩ => hother (hserved hreq).1,
      if_neg fun ⟨hreq, hids⟩ => (hserved hreq).2 hids]

/-! ## NOTIFY_RX -/

/-- Settles O24: the poll is all that happens. -/
theorem notifyWithNoFrame : Obligations.NotifyWithNoFrame := by
  intro s hs hp
  simp only [exec, execNotifyRx, whenInit_of_true hs, hp]
  rfl

/-- Settles O25: the first disposition step. -/
theorem notifyDiscardsAShortFrame : Obligations.NotifyDiscardsAShortFrame := by
  intro s rx hs hp hshort
  rw [notify_frame hs hp, receive_eq, if_pos hshort]
  rfl

/-- Settles O26: the second disposition step. -/
theorem notifyDiscardsAnInvalidIdentifier : Obligations.NotifyDiscardsAnInvalidIdentifier := by
  intro s rx hs hp h4 hid
  rw [notify_frame hs hp, receive_eq, if_neg (by omega), if_pos hid]
  rfl

/-- Settles O28: the target test comes before the service code. -/
theorem notifyDiscardsARequestForAnotherNode : Obligations.NotifyDiscardsARequestForAnotherNode := by
  intro s rx hs hp h4 hreq hother
  have hvalid := requestIdentifier_le hreq
  rw [notify_frame hs hp, receive_eq, if_neg (by omega), if_neg (by omega), if_pos ⟨hreq, hother⟩]
  rfl

/-- A request identifier is an even one of a service class (R178, R229). -/
theorem service_class_of_requestIdentifier {r : Half} (h : requestIdentifier r.toNat) :
    ∃ c : MsgClass, (c = .nsh ∨ c = .nsl) ∧ classify r = .valued c r ∧ r.toNat % 2 = 0 := by
  obtain ⟨heven, hnsh | hnsl⟩ := h
  · exact ⟨.nsh, .inl rfl, classify_eq_valued_iff.2 ((service_holds_iff (.inl rfl) _).2 hnsh), heven⟩
  · exact ⟨.nsl, .inr rfl, classify_eq_valued_iff.2 ((service_holds_iff (.inr rfl) _).2 hnsl), heven⟩

/-- Settles O27: the step that transmits; the class of the reply is `replyIdentifierStaysInTheClass`. -/
theorem notifyAnswersAnIdentificationRequest : Obligations.NotifyAnswersAnIdentificationRequest := by
  intro s rx hs hp h4 hreq haddr hids
  obtain ⟨c, hservice, hclass, heven⟩ := service_class_of_requestIdentifier hreq
  obtain ⟨-, hreply, -⟩ := replyIdentifierStaysInTheClass c rx.id hservice hclass heven
  refine ⟨?_, c, hservice, hclass, hreply⟩
  have hvalid := requestIdentifier_le hreq
  rw [notify_frame hs hp, receive_eq, if_neg (by omega), if_neg (by omega),
    if_neg fun ⟨_, hother⟩ => hother haddr, if_pos ⟨hreq, hids⟩]
  rfl

/-- Settles O29: the frame is pushed, and there is room. -/
theorem notifyQueuesAFrame : Obligations.NotifyQueuesAFrame := by
  intro s rx hs hp hqueue hroom hasc
  rw [notify_frame hs hp, receive_forQueue (s := afterPoll s) hqueue, push_of_room (s := afterPoll s) hroom hasc]
  rfl

/-- Settles O30: the frame is pushed, and there is no room; the counter is a 32-bit word. -/
theorem notifyDropsTheIncomingFrameWhenFull : Obligations.NotifyDropsTheIncomingFrameWhenFull := by
  intro s rx hs hp hqueue hfull
  refine ⟨s.qOvfCnt + 1#32, BitVec.toNat_add s.qOvfCnt 1#32, ?_⟩
  rw [notify_frame hs hp, receive_forQueue (s := afterPoll s) hqueue, push_of_full (s := afterPoll s) hfull]
  rfl

/-! ## SEND_MSG -/

/-- The frame on the wire for a message operand (R41, R200): its data in canonical form. -/
theorem txFrame_message (k : Half) (m : MsgOperand) :
    let d := zeroFrom (tagWidth m.data.tag.toNat) m.data.d
    txFrame k (frameOf m.message).raw =
      ⟨k, 8#4, ⟨m.nodeId, m.data.tag, m.serviceCode, m.messageCode, d.b0, d.b1, d.b2, d.b3⟩⟩ := by
  simp only [txFrame, RawMessage.toBytes, frameOf, MsgOperand.message, DtOperand.value, typeId_decode, encode_decode]

/-- SEND_MSG in IDLE, its identifier not valid: OUT_OF_RANGE (R237, R274). -/
theorem exec_sendMsg_of_idOf_none {m : MsgOperand} {s : State} (hs : s.init = true) (hk : idOf m.mt.type = none) :
    exec (.sendMsg m) s = .next (respond s [0x03#8]) := by
  have hk' : idOf m.message.mt = none := hk
  simp only [exec, execSendMsg, whenInit_of_true hs, hk', raise_eq, statusCode]

/-- Settles O31: the operand has an identifier, its value. -/
theorem sendMsgTransmitsTheMessage : Obligations.SendMsgTransmitsTheMessage := by
  intro m s hs hrange
  rw [exec_sendMsg_of_idOf hs ((idOf_type m.mt).trans (if_pos hrange)), txFrame_message]
  rfl

/-- Settles O32: the operand has no identifier. -/
theorem sendMsgOutOfRangeTransmitsNothing : Obligations.SendMsgOutOfRangeTransmitsNothing :=
  fun m _ hs hrange => exec_sendMsg_of_idOf_none hs ((idOf_type m.mt).trans (if_neg hrange))

/-! ## READ_MSG and READ_STATUS -/

/-- READ_MSG in IDLE on the empty queue: NONE (R239, R277). -/
theorem exec_readMsg_of_nil {s : State} (hs : s.init = true) (hq : s.rq = []) :
    exec .readMsg s = .next (respond s [0x01#8]) := by
  simp only [exec, execReadMsg, whenInit_of_true hs, hq, raise_eq, statusCode]

/-- READ_MSG in IDLE removes the head of RQ and answers its message (R239). -/
theorem exec_readMsg_of_cons {s : State} {f : Frame} {rest : List Frame} (hs : s.init = true) (hq : s.rq = f :: rest) :
    exec .readMsg s = .next (respond { s with rq := rest } (0x00#8 :: (messageOf f).operand.bytes)) := by
  simp only [exec, execReadMsg, whenInit_of_true hs, hq, completeOk_eq]

/-- A frame is read back from the port as it was written (R83, R89). -/
theorem frame_operand (f : Frame) : f.operand.frame = f := by
  simp only [Frame.operand, FrameOperand.frame, type_operand]

/-- A MessageType as it is written on the port comes back unchanged (R89). -/
theorem mtEcho_operand (mt : MessageType) : mtEcho mt.operand = mt.operand.bytes := by
  rw [← echo_type, type_operand]

/-- Settles O33: the head is the frame of its own operand on the port, whose bytes are `messageOf_bytes`. -/
theorem readMsgPopsTheHead : Obligations.ReadMsgPopsTheHead := by
  intro s hs
  refine ⟨exec_readMsg_of_nil hs, fun f rest hq => ?_⟩
  have hbytes := messageOf_bytes f.operand
  rw [frame_operand, Frame.operand, mtEcho_operand] at hbytes
  rw [exec_readMsg_of_cons hs hq, hbytes]
  cases f.mt with
  | valued c v => rfl
  | invalid => rfl

/-- Settles O34: the count fits its byte under R35's bound, and `be32` is the counter's four bytes. -/
theorem readStatusReportsCountAndOverflow : Obligations.ReadStatusReportsCountAndOverflow := by
  intro s hs
  refine ⟨_, _, _, _, _, congrArg Host.Outcome.next (whenInit_of_true hs _), fun hlen => ?_, ?_⟩
  · rw [BitVec.toNat_ofNat]
    omega
  · obtain ⟨h0, h1, h2, h3⟩ := be32_toNat s.qOvfCnt
    rw [h0, h1, h2, h3, four_bytes]

/-! ## NODE_INIT and the identification setters -/

/-- Settles O22: NODE_INIT has no guard. -/
theorem nodeInitBuildsTheNode : Obligations.NodeInitBuildsTheNode :=
  fun _ _ => rfl

/-- Settles O23: each setter is its one write under the guard of R24. -/
theorem settersWriteTheirRegister : Obligations.SettersWriteTheirRegister := by
  intro v s
  have guard_open : s.init = true → ∀ t : State,
      (Host.Outcome.next (whenInit s t) : Host.Outcome State Fault Refusal) = .next t :=
    fun hs t => congrArg _ (whenInit_of_true hs t)
  have guard_shut : s.init = false → ∀ t : State,
      (Host.Outcome.next (whenInit s t) : Host.Outcome State Fault Refusal) = .next (respond s [0x04#8]) :=
    fun hs t => congrArg _ (whenInit_of_false hs t)
  exact ⟨fun hs => ⟨guard_open hs _, guard_open hs _, guard_open hs _, guard_open hs _⟩,
    fun hs => ⟨guard_shut hs _, guard_shut hs _, guard_shut hs _, guard_shut hs _⟩⟩

end Sys2Proof
end

section
/-! PROOFS. Exceptions (60_exceptions.md): how a command completes (R271, R272), and the node engine before
NODE_INIT (R275). -/

namespace Sys2Proof

open Sys2Proof.Machine

/-! ## Completion -/

/-- The two ways a command completes: OK, with the result bytes of R83 behind whatever state it wrote; or
another status of its row of R271, and then nothing is written (R272). -/
inductive Completes (i : Instr) (s : State) : State → Prop where
  | ok (u : State) (result : List Byte) (hresp : u.resp = s.resp) (hlen : result.length = resultLength i) :
      Completes i s (completeOk u result)
  | fail (st : Status) (hrow : st ∈ statusesOf i) (hfail : st ≠ .ok) : Completes i s (raise s st)

/-- Every row of R271 has OK. -/
theorem ok_mem_statusesOf (i : Instr) : .ok ∈ statusesOf i := by
  cases i <;> exact List.mem_cons_self

/-- A command under the guard of R24 completes so in state IDLE, and with NOT_INITIALIZED before (R275). -/
theorem completes_whenInit {i : Instr} {s d : State} (hrow : .notInitialized ∈ statusesOf i)
    (hd : Completes i s d) : Completes i s (whenInit s d) := by
  obtain hs | hs := Bool.eq_false_or_eq_true s.init
  · rwa [whenInit_of_true hs]
  · rw [whenInit_of_false hs]
    exact .fail .notInitialized hrow nofun

/-- A receive event gives no response of its own (R226). -/
theorem receive_resp (s : State) (rx : RxFrame) : (receive s rx).1.resp = s.resp := by
  obtain ⟨q, c, l, hr⟩ := receive_writes s rx
  rw [hr]

/-- Every command, in every state, completes in one of the two ways; the splits are the tests of R273, R274, R277. -/
theorem exec_completes_within (i : Instr) (s : State) : ∃ t, exec i s = .next t ∧ Completes i s t := by
  cases i with
  | nodeInit n => exact ⟨_, rfl, .ok _ [] rfl rfl⟩
  | setHwRev | setSwRev | setConfig | setHdrConfig | readStatus =>
    exact ⟨_, rfl, completes_whenInit (by simp [statusesOf]) (.ok _ _ rfl rfl)⟩
  | notifyRx =>
    refine ⟨_, rfl, completes_whenInit (by simp [statusesOf]) ?_⟩
    cases pollAnswer s with
    | none => exact .ok (afterPoll s) _ rfl rfl
    | some rx => exact .ok (receive (afterPoll s) rx).1 _ (receive_resp (afterPoll s) rx) rfl
  | sendMsg m =>
    refine ⟨_, rfl, completes_whenInit (by simp [statusesOf]) ?_⟩
    cases idOf m.message.mt with
    | none => exact .fail .outOfRange (by simp [statusesOf]) nofun
    | some k => exact .ok _ [] rfl rfl
  | readMsg =>
    refine ⟨_, rfl, completes_whenInit (by simp [statusesOf]) ?_⟩
    cases s.rq with
    | nil => exact .fail .none (by simp [statusesOf]) nofun
    | cons f rest => exact .ok _ _ rfl (message_bytes_length _)
  | dtEncode | dtDecode | dtTypeId | dtLen | rawEmpty | mtClassify | msgToFrame => exact ⟨_, rfl, .ok s _ rfl rfl⟩
  | mtId m =>
    refine ⟨_, exec_mtId m s, ?_⟩
    cases idOf m.type with
    | none => exact .fail .outOfRange (by simp [statusesOf]) nofun
    | some v => exact .ok s _ rfl rfl
  | rawFromBytes b =>
    refine ⟨_, exec_rawFromBytes b s, ?_⟩
    cases RawMessage.fromBytes b with
    | none => exact .fail .malformedFrame (by simp [statusesOf]) nofun
    | some r => exact .ok s _ rfl rfl
  | rawToBytes r =>
    refine ⟨_, exec_rawToBytes r s, ?_⟩
    split
    · exact .ok s _ rfl rfl
    · exact .fail .malformedFrame (by simp [statusesOf]) nofun
  | msgFromFrame f =>
    refine ⟨_, exec_msgFromFrame f s, ?_⟩
    split
    · exact .ok s _ rfl (message_bytes_length _)
    · exact .fail .malformedFrame (by simp [statusesOf]) nofun
  | frameCmp f g =>
    refine ⟨_, exec_frameCmp f g s, ?_⟩
    split
    · cases compareFrames f.frame g.frame with
      | none => exact .fail .outOfRange (by simp [statusesOf]) nofun
      | some o => exact .ok s _ rfl rfl
    · exact .fail .malformedFrame (by simp [statusesOf]) nofun

/-- Settles O12: the two ways of completing; an illegal opcode is the decoder's, not a command's (R276). -/
theorem everyCommandCompletesWithinItsStatuses : Obligations.EveryCommandCompletesWithinItsStatuses := by
  refine ⟨fun i s => ?_, fun s op rest ho hd => step_of_illegalOpcode ho hd⟩
  obtain ⟨t, hexec, hcompletes⟩ := exec_completes_within i s
  cases hcompletes with
  | ok u result hresp hlen =>
    have hgrow : (completeOk u result).resp = s.resp ++ [statusCode .ok :: result] := hresp ▸ rfl
    exact ⟨.ok, result, _, hexec, hgrow, ok_mem_statusesOf i, fun _ => hlen, fun hfail => absurd rfl hfail⟩
  | fail st hrow hfail =>
    exact ⟨st, [], _, hexec, rfl, hrow, fun hok => absurd hok hfail, fun _ => ⟨rfl, rfl⟩⟩

/-! ## Before NODE_INIT -/

/-- Settles O21: opcodes 0x02 to 0x09 are the commands under the guard of R24. -/
theorem nodeCommandsFailBeforeNodeInit : Obligations.NodeCommandsFailBeforeNodeInit := by
  intro i s hs hlo hhi
  cases i with
  | setHwRev | setSwRev | setConfig | setHdrConfig | notifyRx | sendMsg | readMsg | readStatus =>
    exact congrArg Host.Outcome.next (whenInit_of_false hs _)
  | nodeInit => simp [opcode] at hlo
  | _ => simp [opcode] at hhi

end Sys2Proof
end

section
/-! PROOFS. Reset and hazards (70_reset_and_hazards.md): the codec commands stand outside the node's state
(R305), and overlapping commands are refused (R310, U3). -/

namespace Sys2Proof

open Sys2Proof.Machine

/-- Settles O13: the one response `exec_codec` gives is all that `respond` writes. -/
theorem codecCommandsReadNoState : Obligations.CodecCommandsReadNoState :=
  fun i hcodec => exec_codec i hcodec

/-- Settles O10: the port's overlap is tested before the decoder reads a byte. -/
theorem overlappingCommandsAreRefused : Obligations.OverlappingCommandsAreRefused :=
  fun _ ho => step_of_overlap ho

end Sys2Proof
end
